-- ==== Sys2Proof/Config.lean ====
section
/-! DEFINITION. What an implementation of the two engines fixes (spec/00_scope.md rule R6). -/

namespace Sys2Proof.Config

/-- IOCODE_W: the width of the opaque code that goes with an UnderlyingIOError. "OPEN means the model takes it as an
argument" (R6, decision D15): the constant has no body, so whatever is proved holds of every width (log 1). -/
opaque iocodeW : Nat

/-- VALUE_W as a count: the largest legal bit count of RDBITS and WRBITS (R6, R116, R147). -/
abbrev maxWidth : Nat := 128

end Sys2Proof.Config
end

