-- ==== Sys2Proof/Word.lean ====
section
/-! DEFINITION. The words of the hardware (spec/00_scope.md rules R6, R7). -/

namespace Sys2Proof

/-- A stream byte, and the registers CUR and PEND: 8 bits. -/
abbrev Byte := BitVec 8

/-- A value of VALUE_W = 128 bits: ACC, WVAL, R_RSP_DATA, W_VAL. -/
abbrev Value := BitVec 128

/-- A command word, CMD_W = 16 bits. -/
abbrev CmdWord := BitVec 16

/-- An offset register, OFF_W = 4 bits. -/
abbrev Offset := BitVec 4

/-- A count or index register, CNT_W = 8 bits: BCNT, WIDX, the field CNT. -/
abbrev Count := BitVec 8

/-- The opaque I/O error code, IOCODE_W bits. -/
abbrev IoCode := BitVec Config.iocodeW

end Sys2Proof
end

