-- ==== Sys2Proof/Syntax.lean ====
section
/-! DEFINITION. The nine commands of the two engines (spec/30_encoding.md rule R88, spec/opcode_table.json). -/

namespace Sys2Proof

/-- The engine on whose port a command word stands (spec/30_encoding.md rules R80, R81). -/
inductive Port where
  | br
  | bw
  deriving DecidableEq, Repr

/-- A command as its engine takes it. A count is the number the host asks for (R94). A BW command that uses
W_VAL carries all 128 bits of it, since WVAL latches them all (spec/10_state.md rule R36, log 9). -/
inductive Instr where
  /-- RDBIT: read one bit (R114). -/
  | rdbit
  /-- RDBITS n: read `n` bits (R116). -/
  | rdbits (n : Nat)
  /-- RDBYTE: read 8 bits (R119). -/
  | rdbyte
  /-- WRBIT: write bit 0 of W_VAL (R145). -/
  | wrbit (val : Value)
  /-- WRBITS: write the low `n` bits of W_VAL (R147). -/
  | wrbits (val : Value) (n : Nat)
  /-- WRBYTE: write bits 7:0 of W_VAL (R150). -/
  | wrbyte (val : Value)
  /-- PAD: complete a partial byte with zero bits (R153). -/
  | pad
  /-- FPAD: emit the pending byte as it stands (R156). -/
  | fpad
  /-- FLUSH: PAD, then flush the sink (R159). -/
  | flush
  deriving DecidableEq, Repr

/-- The port a command belongs to (R88, column "port"). -/
def Instr.port : Instr → Port
  | .rdbit => .br
  | .rdbits _ => .br
  | .rdbyte => .br
  | .wrbit _ => .bw
  | .wrbits _ _ => .bw
  | .wrbyte _ => .bw
  | .pad => .bw
  | .fpad => .bw
  | .flush => .bw

end Sys2Proof
end

