-- ==== Sys2Proof/WellFormed.lean ====
section
/-! DEFINITION. Which commands a command word can carry (spec/30_encoding.md rules R84, R87, R94). -/

namespace Sys2Proof

/-- A count fits the field CNT: "`n` a number 0 to 255" (R94). Counts 129 to 255 are encodable, and then
refused with InvalidBitWidth (R87). -/
def countEncodable (n : Nat) : Bool := n < 256

/-- A command is well formed when its count fits CNT; the other commands have no operand to check (R86). -/
def Instr.wellFormed : Instr → Bool
  | .rdbit => true
  | .rdbits n => countEncodable n
  | .rdbyte => true
  | .wrbit _ => true
  | .wrbits _ n => countEncodable n
  | .wrbyte _ => true
  | .pad => true
  | .fpad => true
  | .flush => true

end Sys2Proof
end

