-- ==== Sys2Proof/Decode.lean ====
section
/-! DEFINITION. Command words: the opcode map, the two decoders and the encoder (spec/30_encoding.md section 2,
section 3, rules R84 to R89, R97). A command word is a 16-bit bus, so no byte order enters (log 8). -/

namespace Sys2Proof

/-- The field OPC, bits 15:8 (R84). -/
def opcField (w : CmdWord) : BitVec 8 := w.extractLsb' 8 8

/-- The field CNT, bits 7:0 (R84). -/
def cntField (w : CmdWord) : BitVec 8 := w.extractLsb' 0 8

/-- The opcodes of R88, by number. -/
inductive Opcode where
  | rdbit | rdbits | rdbyte | wrbit | wrbits | wrbyte | pad | fpad | flush
  deriving DecidableEq, Repr

/-- The number of an opcode (R88, column OPC). -/
def Opcode.number : Opcode → BitVec 8
  | .rdbit => 0x01#8
  | .rdbits => 0x02#8
  | .rdbyte => 0x03#8
  | .wrbit => 0x11#8
  | .wrbits => 0x12#8
  | .wrbyte => 0x13#8
  | .pad => 0x14#8
  | .fpad => 0x15#8
  | .flush => 0x16#8

/-- The engine that decodes an opcode (R88, column "port"). -/
def Opcode.port : Opcode → Port
  | .rdbit => .br
  | .rdbits => .br
  | .rdbyte => .br
  | .wrbit => .bw
  | .wrbits => .bw
  | .wrbyte => .bw
  | .pad => .bw
  | .fpad => .bw
  | .flush => .bw

/-- The opcode a number stands for on either port; `none` for a number outside the map (R88). -/
def opcodeOf (n : BitVec 8) : Option Opcode :=
  if n = 0x01#8 then some .rdbit
  else if n = 0x02#8 then some .rdbits
  else if n = 0x03#8 then some .rdbyte
  else if n = 0x11#8 then some .wrbit
  else if n = 0x12#8 then some .wrbits
  else if n = 0x13#8 then some .wrbyte
  else if n = 0x14#8 then some .pad
  else if n = 0x15#8 then some .fpad
  else if n = 0x16#8 then some .flush
  else none

/-- Why a word is illegal on a port (R89). All three are answered IllegalCommand. -/
inductive Illegal where
  /-- OPC is not in the map of R88. -/
  | unknownOpcode
  /-- OPC belongs to the other engine. -/
  | otherEngine
  /-- A word of format F0 whose CNT is not 0 (R85). -/
  | nonzeroCount
  deriving DecidableEq, Repr

/-- What a decoder reads from a word. -/
inductive Decoded where
  | command (i : Instr)
  | illegal (why : Illegal)
  deriving DecidableEq, Repr

/-- A command of format F0: CNT must be 0 (R85). -/
def formatF0 (cnt : BitVec 8) (i : Instr) : Decoded :=
  if cnt = 0#8 then .command i else .illegal .nonzeroCount

/-- Format FC: the count is CNT read as an unsigned number (R85, R87). -/
def countOperand (cnt : BitVec 8) : Nat := cnt.toNat

/-- `decodeBR` of R97: the word on R_CMD. -/
def decodeBR (w : CmdWord) : Decoded :=
  match opcodeOf (opcField w) with
  | some .rdbit => formatF0 (cntField w) .rdbit
  | some .rdbits => .command (.rdbits (countOperand (cntField w)))
  | some .rdbyte => formatF0 (cntField w) .rdbyte
  | some .wrbit => .illegal .otherEngine
  | some .wrbits => .illegal .otherEngine
  | some .wrbyte => .illegal .otherEngine
  | some .pad => .illegal .otherEngine
  | some .fpad => .illegal .otherEngine
  | some .flush => .illegal .otherEngine
  | none => .illegal .unknownOpcode

/-- `decodeBW` of R97: the word on W_CMD with the 128 bits on W_VAL. The bits of `val` a command does not use
are dropped where the command runs (R86), not here, since WVAL latches `val` whole (log 9). -/
def decodeBW (w : CmdWord) (val : Value) : Decoded :=
  match opcodeOf (opcField w) with
  | some .wrbit => formatF0 (cntField w) (.wrbit val)
  | some .wrbits => .command (.wrbits val (countOperand (cntField w)))
  | some .wrbyte => formatF0 (cntField w) (.wrbyte val)
  | some .pad => formatF0 (cntField w) .pad
  | some .fpad => formatF0 (cntField w) .fpad
  | some .flush => formatF0 (cntField w) .flush
  | some .rdbit => .illegal .otherEngine
  | some .rdbits => .illegal .otherEngine
  | some .rdbyte => .illegal .otherEngine
  | none => .illegal .unknownOpcode

/-- The decoder of a port. BR's port has no value bus, and ignores `val`. -/
def decodeOn (p : Port) (w : CmdWord) (val : Value) : Decoded :=
  match p with
  | .br => decodeBR w
  | .bw => decodeBW w val

/-- One row of the opcode map as R88 prints it. -/
structure OpcodeRow where
  mnemonic : String
  port : Port
  pattern : CmdWord
  mask : CmdWord
  deriving DecidableEq, Repr

/-- The opcode map of R88: mnemonic, port, match, mask. -/
def opcodeMap : List OpcodeRow :=
  [ ⟨"RDBIT", .br, 0x0100#16, 0xFFFF#16⟩,
    ⟨"RDBITS", .br, 0x0200#16, 0xFF00#16⟩,
    ⟨"RDBYTE", .br, 0x0300#16, 0xFFFF#16⟩,
    ⟨"WRBIT", .bw, 0x1100#16, 0xFFFF#16⟩,
    ⟨"WRBITS", .bw, 0x1200#16, 0xFF00#16⟩,
    ⟨"WRBYTE", .bw, 0x1300#16, 0xFFFF#16⟩,
    ⟨"PAD", .bw, 0x1400#16, 0xFFFF#16⟩,
    ⟨"FPAD", .bw, 0x1500#16, 0xFFFF#16⟩,
    ⟨"FLUSH", .bw, 0x1600#16, 0xFFFF#16⟩ ]

/-- "A word `w` selects a row when `(w & mask) = match`" (R88). -/
def OpcodeRow.selects (row : OpcodeRow) (w : CmdWord) : Bool := (w &&& row.mask) == row.pattern

/-- The mnemonic of a command (R88). -/
def Instr.mnemonic : Instr → String
  | .rdbit => "RDBIT"
  | .rdbits _ => "RDBITS"
  | .rdbyte => "RDBYTE"
  | .wrbit _ => "WRBIT"
  | .wrbits _ _ => "WRBITS"
  | .wrbyte _ => "WRBYTE"
  | .pad => "PAD"
  | .fpad => "FPAD"
  | .flush => "FLUSH"

/-- A command as its host presents it: the port, the command word and the value bus (R80, R81, R86). -/
structure Encoded where
  port : Port
  word : CmdWord
  val : Value
  deriving DecidableEq, Repr

/-- A command word: OPC in bits 15:8, CNT in bits 7:0 (R84). -/
def cmdWord (op : Opcode) (n : Nat) : CmdWord := op.number ++ BitVec.ofNat 8 n

/-- The words of a well-formed command (R94). Where a command uses no bit of W_VAL, W_VAL is 0. -/
def encode : Instr → Encoded
  | .rdbit => ⟨.br, cmdWord .rdbit 0, 0#128⟩
  | .rdbits n => ⟨.br, cmdWord .rdbits n, 0#128⟩
  | .rdbyte => ⟨.br, cmdWord .rdbyte 0, 0#128⟩
  | .wrbit val => ⟨.bw, cmdWord .wrbit 0, val⟩
  | .wrbits val n => ⟨.bw, cmdWord .wrbits n, val⟩
  | .wrbyte val => ⟨.bw, cmdWord .wrbyte 0, val⟩
  | .pad => ⟨.bw, cmdWord .pad 0, 0#128⟩
  | .fpad => ⟨.bw, cmdWord .fpad 0, 0#128⟩
  | .flush => ⟨.bw, cmdWord .flush 0, 0#128⟩

/-- The command a port reads from what a host presents. -/
def decode (e : Encoded) : Decoded := decodeOn e.port e.word e.val

/-- The command of a decoding, if there is one. -/
def Decoded.command? : Decoded → Option Instr
  | .command i => some i
  | .illegal _ => none

/-- The port a lone word is put on: the port whose decoder accepts it. A word illegal on both goes to BW when
its OPC is 0x10 or above and to BR otherwise. DESIGN CHOICE for illegal words only (log 8). -/
def wordPort (w : CmdWord) : Port := if 0x10#8 ≤ opcField w then .bw else .br

/-- The command word that an opcode-table word of `nbits` bits stands for: bit 0 of both is the same bit. -/
def tableWord (nbits w : Nat) : CmdWord := BitVec.ofNat 16 (w % 2 ^ nbits)

/-- What the decoders read from an opcode-table word, W_VAL being zeros. -/
def decodeTableWord (nbits w : Nat) : Option Instr :=
  (decodeOn (wordPort (tableWord nbits w)) (tableWord nbits w) 0#128).command?

end Sys2Proof
end

