-- ==== Sys2Proof/Machine/State.lean ====
section
/-! DEFINITION. The state of BR and BW (spec/10_state.md rules R20, R30, R40), of their ports
(spec/30_encoding.md rules R80 to R83, spec/20_memory.md rules R53, R58), the environment's data, and the reasons
a step can stop. There is no addressable memory (spec/20_memory.md rule R50, log 14). -/

namespace Sys2Proof.Machine

/-- The error kinds a command can raise (spec/60_exceptions.md rules R181 to R184). -/
inductive Err where
  | unexpectedEndOfInput
  | invalidBitWidth
  | zeroBytesWritten
  | underlyingIOError (c : IoCode)
  deriving DecidableEq, Repr

/-- The status of a response (spec/60_exceptions.md rule R180). -/
inductive Status where
  | ok
  | unexpectedEndOfInput
  | invalidBitWidth
  | zeroBytesWritten
  | underlyingIOError
  | illegalCommand
  | engineFaulted
  deriving DecidableEq, Repr

/-- How a micro-operation ends: it goes on with a result; it needs an answer its stream does not give at once
(spec/20_memory.md rule R69); or it raises an error (spec/00_scope.md rule R8). Each carries the engine as the
completed micro-operations left it. -/
inductive Micro (α σ : Type) where
  | ok (a : α) (s : σ)
  | blocked (s : σ)
  | raise (e : Err) (s : σ)
  deriving DecidableEq, Repr

/-- An answer on the source port: S_ANS_KIND, S_ANS_BYTE, S_ANS_IOCODE (spec/20_memory.md rule R53). -/
structure SrcAnswer where
  kind : BitVec 2
  byte : Byte
  iocode : IoCode
  deriving DecidableEq, Repr

/-- What `SrcFetch()` returns (spec/20_memory.md rule R54). -/
inductive SrcReply where
  | byte (b : Byte)
  | eos
  | ioerr (c : IoCode)
  deriving DecidableEq, Repr

/-- An answer on the sink port: K_ANS_KIND, K_ANS_IOCODE (spec/20_memory.md rule R58). -/
structure SnkAnswer where
  kind : BitVec 2
  iocode : IoCode
  deriving DecidableEq, Repr

/-- What `SinkWrite(b)` returns (spec/20_memory.md rule R56). -/
inductive WriteReply where
  | accepted
  | zero
  | ioerr (c : IoCode)
  deriving DecidableEq, Repr

/-- What `SinkFlush()` returns (spec/20_memory.md rule R57). -/
inductive FlushReply where
  | done
  | ioerr (c : IoCode)
  deriving DecidableEq, Repr

/-- A request on the sink port (spec/20_memory.md rule R58). -/
inductive SnkRequest where
  | write (b : Byte)
  | flush
  deriving DecidableEq, Repr

/-- A response of BR (spec/30_encoding.md rule R90). -/
structure BrResponse where
  status : Status
  data : Value
  iocode : IoCode
  deriving DecidableEq, Repr

/-- A response of BW (spec/30_encoding.md rule R91). -/
structure BwResponse where
  status : Status
  iocode : IoCode
  deriving DecidableEq, Repr

/-- The BR command in progress. What is left of it stands in ACC and BCNT. -/
inductive BrJob where
  | rdbit
  | rdbits
  | rdbyte
  deriving DecidableEq, Repr

/-- Where BR stands between two transfers. -/
inductive BrPhase where
  /-- R_CMD_READY is high: no command taken and not yet answered (spec/30_encoding.md rule R83). DESIGN CHOICE: that it
  is high in every idle state (log 21). -/
  | idle
  /-- S_REQ_VALID is high: the fetch request of a REFILL waits for the source to take it. -/
  | requesting (j : BrJob)
  /-- S_ANS_READY is high: one fetch request is outstanding (spec/20_memory.md rules R53, R69). DESIGN CHOICE: that it is
  high all the while (log 21). -/
  | awaiting (j : BrJob)
  /-- R_RSP_VALID is high with this response (spec/30_encoding.md rules R82, R83). -/
  | responding (r : BrResponse)
  deriving DecidableEq, Repr

/-- The BW command in progress and the request it waits for: the WRITE of an EMIT, but for `flushSink`, the
FLUSH request of a FLUSH. What is left of the command stands in WVAL and WIDX. -/
inductive BwJob where
  | wrbit
  | wrbits
  | wrbyte
  | pad
  | fpad
  | flushPad
  | flushSink
  deriving DecidableEq, Repr

/-- Where BW stands between two transfers; as `BrPhase`, with log 21 for W_CMD_READY in `idle` and K_ANS_READY in
`awaiting`. -/
inductive BwPhase where
  | idle
  | requesting (j : BwJob)
  | awaiting (j : BwJob)
  | responding (r : BwResponse)
  deriving DecidableEq, Repr

/-- BR and its source port. -/
structure ReadSide where
  /-- CUR (R21) -/
  cur : Byte
  /-- ROFF (R22) -/
  roff : Offset
  /-- RFLT (R26) -/
  rflt : Bool
  /-- ACC (R25) -/
  acc : Value
  /-- BCNT (R25) -/
  bcnt : Count
  /-- the command and response ports, and the request on the source port -/
  phase : BrPhase
  /-- environment: the answers the source gives without delay to the next requests (log 4) -/
  answers : List SrcAnswer
  /-- record: source requests transferred (log 11) -/
  fetches : Nat
  /-- record: bytes the source has handed out, in order (log 11) -/
  taken : List Byte
  /-- record: command words taken since reset, in order (R216, R217, log 11) -/
  commands : List CmdWord
  /-- record: responses the host has taken since reset, in order (log 11) -/
  responses : List BrResponse
  deriving DecidableEq, Repr

/-- BW and its sink port. -/
structure WriteSide where
  /-- PEND (R31) -/
  pend : Byte
  /-- WOFF (R32) -/
  woff : Offset
  /-- WFLT (R34) -/
  wflt : Bool
  /-- WVAL (R36) -/
  wval : Value
  /-- WIDX (R36) -/
  widx : Count
  /-- the command and response ports, and the request on the sink port -/
  phase : BwPhase
  /-- environment: the answers the sink gives without delay to the next requests (log 4) -/
  answers : List SnkAnswer
  /-- record: sink requests transferred, in order (log 11) -/
  requests : List SnkRequest
  /-- record: bytes the sink answered ACCEPTED for, in order (R56, log 11) -/
  accepted : List Byte
  /-- record: how many of `accepted` a flush answered DONE covers (R57, log 11) -/
  drained : Nat
  /-- record: command words taken since reset, in order (R215, R217, log 11) -/
  commands : List CmdWord
  /-- record: responses the host has taken since reset, in order (log 11) -/
  responses : List BwResponse
  deriving DecidableEq, Repr

/-- What the environment presents to the machine: one transfer of a channel, or a reset edge. -/
inductive Event where
  /-- R_CMD_VALID with this R_CMD. -/
  | brCommand (w : CmdWord)
  /-- R_RSP_READY. -/
  | brTake
  /-- S_REQ_READY. -/
  | srcAccept
  /-- S_ANS_VALID with this answer. -/
  | srcAnswer (a : SrcAnswer)
  /-- RST of BR. -/
  | brReset
  /-- W_CMD_VALID with this W_CMD and W_VAL. -/
  | bwCommand (w : CmdWord) (val : Value)
  /-- W_RSP_READY. -/
  | bwTake
  /-- K_REQ_READY. -/
  | snkAccept
  /-- K_ANS_VALID with this answer. -/
  | snkAnswer (a : SnkAnswer)
  /-- RST of BW. -/
  | bwReset
  deriving DecidableEq, Repr

/-- The two engines, which share nothing (spec/00_scope.md rule R3), and what the environment presents, in
the order it presents it (log 5). -/
structure State where
  rd : ReadSide
  wr : WriteSide
  inbox : List Event
  deriving DecidableEq, Repr

/-- Why `step` has no next state though no rule is broken. -/
inductive Fault where
  /-- Raised by `step` alone: nothing the environment presents can be transferred now, and an engine waits: for its
  stream, or for its host to take a response (spec/20_memory.md rule R69, spec/93_implementation_defined.md U5). SAFE:
  the hardware changes nothing either. -/
  | awaitingEnvironment
  /-- Raised by `step` alone: both engines are idle with every response taken and no command presented. The run of
  each engine is over (spec/70_reset_and_hazards.md rule R217). SAFE: the hardware changes nothing either. -/
  | runOver
  deriving DecidableEq, Repr

/-- What the model declines to give a meaning. -/
inductive Refusal where
  /-- Raised by `exec` alone, for an instruction that has no meaning yet. SAFE. No arm of this model raises it. -/
  | notModelled (mnemonic : String)
  /-- Raised by `step` alone: RST while a command is taken and not yet answered. "A model refuses a reset in
  the middle of a command" (spec/70_reset_and_hazards.md rule R213). SAFE. -/
  | resetMidCommand
  deriving DecidableEq, Repr

/-- BR after reset (spec/10_state.md rule R40, spec/70_reset_and_hazards.md rule R210), nothing read yet. ACC and
BCNT are unspecified there; DESIGN CHOICE 0 (log 2). -/
def ReadSide.reset : ReadSide where
  cur := 0#8
  roff := 8#4
  rflt := false
  acc := 0#128
  bcnt := 0#8
  phase := .idle
  answers := []
  fetches := 0
  taken := []
  commands := []
  responses := []

/-- BW after reset (spec/10_state.md rule R40, spec/70_reset_and_hazards.md rule R210), nothing written yet. WVAL and
WIDX are unspecified there; DESIGN CHOICE 0 (log 2). -/
def WriteSide.reset : WriteSide where
  pend := 0#8
  woff := 0#4
  wflt := false
  wval := 0#128
  widx := 0#8
  phase := .idle
  answers := []
  requests := []
  accepted := []
  drained := 0
  commands := []
  responses := []

/-- The machine right after reset, its environment having presented nothing. -/
def State.reset : State where
  rd := ReadSide.reset
  wr := WriteSide.reset
  inbox := []

end Sys2Proof.Machine
end

