-- ==== Sys2Proof/Machine/Operands.lean ====
section
/-! DEFINITION. Operands, results and the shifter (spec/00_scope.md rule R9, spec/30_encoding.md rules R86, R87, R90). -/

namespace Sys2Proof.Machine

/-- The shift of EXTRACT's and SHIFTIN's registers: `trunc_w((x << 1) | zext_w(b))` (R9 a to c). -/
def shiftInBit (w : Nat) (x : BitVec w) (b : Bool) : BitVec w := (x <<< 1) ||| (BitVec.ofBool b).setWidth w

/-- Bit `i` of W_VAL, as WVAL latched it (R9 d). -/
def valueBit (v : Value) (i : Nat) : Bool := v.getLsbD i

/-- The operand of WRBIT: W_VAL[0] (R86). -/
def bitOperand (v : Value) : Bool := valueBit v 0

/-- How many low bits of W_VAL a WRBYTE writes: W_VAL[7:0] (R86). -/
def byteWidth : Nat := 8

/-- The width check of RDBITS and WRBITS: `n > 128` (R116, R147, R182). -/
def tooWide (n : Nat) : Bool := Config.maxWidth < n

/-- The count as BCNT holds it (R116). -/
def countRegister (n : Nat) : Count := BitVec.ofNat 8 n

/-- DATA of RDBIT: `zext_128(b)` (R90, R114). -/
def bitResult (b : Bool) : Value := (BitVec.ofBool b).setWidth 128

/-- DATA of RDBITS: ACC (R90, R116). -/
def bitsResult (acc : Value) : Value := acc

/-- DATA of RDBYTE: `zext_128(ACC[7:0])` (R90, R119). -/
def byteResult (acc : Value) : Value := (acc.extractLsb' 0 8).setWidth 128

/-- The zero bits PAD and FLUSH write: `8 - WOFF` (R9 f, R153, R159). -/
def padCount (woff : Offset) : Nat := (8#4 - woff).toNat

/-- `SrcFetch()` reads the answer: KIND 0 is BYTE, 1 is EOS, and bit 1 set is IOERR whatever bit 0 is
(spec/20_memory.md rules R53, R54). -/
def srcReply (a : SrcAnswer) : SrcReply :=
  if a.kind.getLsbD 1 then .ioerr a.iocode
  else if a.kind.getLsbD 0 then .eos
  else .byte a.byte

/-- `SinkWrite(b)` reads the answer: KIND 0 is ACCEPTED, 1 is ZERO, bit 1 set is IOERR (R56). -/
def writeReply (a : SnkAnswer) : WriteReply :=
  if a.kind.getLsbD 1 then .ioerr a.iocode
  else if a.kind.getLsbD 0 then .zero
  else .accepted

/-- `SinkFlush()` reads the answer: bit 1 set is IOERR, else DONE; bit 0 is ignored (R57). -/
def flushReply (a : SnkAnswer) : FlushReply :=
  if a.kind.getLsbD 1 then .ioerr a.iocode else .done

end Sys2Proof.Machine
end

