-- ==== Sys2Proof/Machine/Flags.lean ====
section
/-! DEFINITION. The engines have no condition codes (spec/10_state.md rules R28, R37). The only flag-like state is
the fault latches RFLT and WFLT. This file says which errors set them and what status and code an error reports
(spec/60_exceptions.md rules R180, R187, R188, R190). -/

namespace Sys2Proof.Machine

/-- Which errors latch (R187, R188). -/
def Err.latches : Err → Bool
  | .unexpectedEndOfInput => true
  | .invalidBitWidth => false
  | .zeroBytesWritten => true
  | .underlyingIOError _ => true

/-- The fault latch after an error: set by a latching error, else as it was (R187, R188). -/
def latchAfter (flt : Bool) (e : Err) : Bool := flt || e.latches

/-- The status an error reports (R180). -/
def Err.status : Err → Status
  | .unexpectedEndOfInput => .unexpectedEndOfInput
  | .invalidBitWidth => .invalidBitWidth
  | .zeroBytesWritten => .zeroBytesWritten
  | .underlyingIOError _ => .underlyingIOError

/-- IOCODE of an error response: the stream's code unchanged, else all zeros (R184, R190). -/
def Err.iocode : Err → IoCode
  | .unexpectedEndOfInput => 0#Config.iocodeW
  | .invalidBitWidth => 0#Config.iocodeW
  | .zeroBytesWritten => 0#Config.iocodeW
  | .underlyingIOError c => c

/-- The code of a status on R_RSP_STATUS and W_RSP_STATUS (R180). Codes 7 to 15 are never produced. -/
def Status.code : Status → BitVec 4
  | .ok => 0#4
  | .unexpectedEndOfInput => 1#4
  | .invalidBitWidth => 2#4
  | .zeroBytesWritten => 3#4
  | .underlyingIOError => 4#4
  | .illegalCommand => 5#4
  | .engineFaulted => 6#4

end Sys2Proof.Machine
end

