-- ==== Sys2Proof/Machine/Ops.lean ====
section
/-! DEFINITION. The operations the commands share: sequencing, responses, error entry and reset
(spec/60_exceptions.md, spec/70_reset_and_hazards.md), the micro-operations of BR and of BW (spec/40_reader.md
section 2, spec/41_writer.md section 2), and the running of a command to its end or to the next answer it must
wait for. -/

namespace Sys2Proof.Machine

/-- Go on with `f` after a micro-operation that ended well; a blocked or raising one ends there (R186). -/
def Micro.bind {α β σ : Type} (m : Micro α σ) (f : α → σ → Micro β σ) : Micro β σ :=
  match m with
  | .ok a s => f a s
  | .blocked s => .blocked s
  | .raise e s => .raise e s

/-! ### Responses and error entry -/

/-- BR presents a response (spec/30_encoding.md rules R83, R90). -/
def brRespond (st : Status) (data : Value) (io : IoCode) (r : ReadSide) : ReadSide :=
  { r with phase := .responding ⟨st, data, io⟩ }

/-- `respond OK(d)` on BR. -/
def brOk (data : Value) (r : ReadSide) : ReadSide := brRespond .ok data 0#Config.iocodeW r

/-- Error entry on BR: the latch, and a response with DATA all zeros; nothing is saved and no register but RFLT
is written (spec/60_exceptions.md rules R186 to R192). There is no return from it but reset. -/
def brRaise (e : Err) (r : ReadSide) : ReadSide :=
  brRespond e.status 0#128 e.iocode { r with rflt := latchAfter r.rflt e }

/-- BR refuses a command without running it: EngineFaulted or IllegalCommand, no other effect (R185, R187). -/
def brRefuse (st : Status) (r : ReadSide) : ReadSide := brRespond st 0#128 0#Config.iocodeW r

/-- BW presents a response (spec/30_encoding.md rules R83, R91). -/
def bwRespond (st : Status) (io : IoCode) (w : WriteSide) : WriteSide :=
  { w with phase := .responding ⟨st, io⟩ }

/-- `respond OK` on BW. -/
def bwOk (w : WriteSide) : WriteSide := bwRespond .ok 0#Config.iocodeW w

/-- Error entry on BW (spec/60_exceptions.md rules R186 to R192). -/
def bwRaise (e : Err) (w : WriteSide) : WriteSide :=
  bwRespond e.status e.iocode { w with wflt := latchAfter w.wflt e }

/-- BW refuses a command without running it (R185, R187). -/
def bwRefuse (st : Status) (w : WriteSide) : WriteSide := bwRespond st 0#Config.iocodeW w

/-- The head of BR's command frame: a faulted engine answers EngineFaulted and does nothing else (R110, R189). -/
def brFrame (r : ReadSide) (body : ReadSide → ReadSide) : ReadSide :=
  if r.rflt then brRefuse .engineFaulted r else body r

/-- The head of BW's command frame (R140, R189). -/
def bwFrame (w : WriteSide) (body : WriteSide → WriteSide) : WriteSide :=
  if w.wflt then bwRefuse .engineFaulted w else body w

/-! ### Reset: the only way out of a fault (spec/70_reset_and_hazards.md rules R210 to R212) -/

/-- Reset of an idle BR. The source is not rewound, the lookahead is lost, a new session starts. ACC and BCNT:
log 2. -/
def brReset (r : ReadSide) : ReadSide :=
  { r with
    cur := 0#8, roff := 8#4, rflt := false, acc := 0#128, bcnt := 0#8, phase := .idle, commands := [], responses := [] }

/-- Reset of an idle BW. The sink is not told, the pending bits are lost, a new session starts. WVAL and WIDX:
log 2. -/
def bwReset (w : WriteSide) : WriteSide :=
  { w with
    pend := 0#8, woff := 0#4, wflt := false, wval := 0#128, widx := 0#8, phase := .idle, commands := [],
    responses := [] }

/-! ### BR: REFILL, EXTRACT, READBIT -/

/-- The part of REFILL after the answer has come (R111): a byte goes to CUR with ROFF = 0; EOS and IOERR raise
and write neither. -/
def refillAnswered (a : SrcAnswer) (r : ReadSide) : Micro Unit ReadSide :=
  match srcReply a with
  | .byte b => .ok () { r with cur := b, roff := 0#4, taken := r.taken ++ [b] }
  | .eos => .raise .unexpectedEndOfInput r
  | .ioerr c => .raise (.underlyingIOError c) r

/-- REFILL (R111): one request to the source, and its answer if the source gives it without delay. -/
def refill (r : ReadSide) : Micro Unit ReadSide :=
  match r.answers with
  | [] => .blocked r
  | a :: rest => refillAnswered a { r with fetches := r.fetches + 1, answers := rest }

/-- EXTRACT (R112): hand out CUR[7], shift CUR left, count the bit. -/
def extract (r : ReadSide) : Micro Bool ReadSide :=
  .ok r.cur.msb { r with cur := shiftInBit 8 r.cur false, roff := r.roff + 1#4 }

/-- READBIT (R113): refill only when ROFF = 8, then extract. -/
def readBit (r : ReadSide) : Micro Bool ReadSide :=
  if r.roff = 8#4 then (refill r).bind fun _ r' => extract r' else extract r

/-- The loop of RDBITS and RDBYTE while `k` bits are still to be read (R116, R119); BCNT counts with `k`. -/
def readLoop : Nat → ReadSide → Micro Unit ReadSide
  | 0, r => .ok () r
  | k + 1, r => (readBit r).bind fun b r' =>
      readLoop k { r' with acc := shiftInBit 128 r'.acc b, bcnt := r'.bcnt - 1#8 }

/-- The end of a stretch of a BR command: the OK response, the wait for the source, or the error. -/
def brFinish (j : BrJob) (m : Micro Value ReadSide) : ReadSide :=
  match m with
  | .ok d r => brOk d r
  | .blocked r => { r with phase := .requesting j }
  | .raise e r => brRaise e r

/-- What is left of a BR command from here on, its loop counter standing in BCNT. -/
def brRest (j : BrJob) (r : ReadSide) : Micro Value ReadSide :=
  match j with
  | .rdbit => (readBit r).bind fun b r' => .ok (bitResult b) r'
  | .rdbits => (readLoop r.bcnt.toNat r).bind fun _ r' => .ok (bitsResult r'.acc) r'
  | .rdbyte => (readLoop r.bcnt.toNat r).bind fun _ r' => .ok (byteResult r'.acc) r'

/-- Run a BR command from here on. -/
def brRun (j : BrJob) (r : ReadSide) : ReadSide := brFinish j (brRest j r)

/-- The source answers an outstanding request: the REFILL it belongs to ends, and the command goes on. -/
def brResume (j : BrJob) (a : SrcAnswer) (r : ReadSide) : ReadSide :=
  brFinish j ((refillAnswered a r).bind fun _ r' => brRest j r')

/-! ### BW: EMIT, SHIFTIN, the sink flush -/

/-- The part of EMIT after the answer has come (R142): ACCEPTED clears PEND and WOFF; ZERO and IOERR raise and
write neither. -/
def emitAnswered (a : SnkAnswer) (w : WriteSide) : Micro Unit WriteSide :=
  match writeReply a with
  | .accepted => .ok () { w with pend := 0#8, woff := 0#4, accepted := w.accepted ++ [w.pend] }
  | .zero => .raise .zeroBytesWritten w
  | .ioerr c => .raise (.underlyingIOError c) w

/-- EMIT (R142): one WRITE request with PEND, and its answer if the sink gives it without delay. -/
def emit (w : WriteSide) : Micro Unit WriteSide :=
  match w.answers with
  | [] => .blocked w
  | a :: rest => emitAnswered a { w with requests := w.requests ++ [.write w.pend], answers := rest }

/-- SHIFTIN(v) (R141): make room, OR in the bit, count it; a full byte is emitted at once. -/
def shiftIn (v : Bool) (w : WriteSide) : Micro Unit WriteSide :=
  let w' := { w with pend := shiftInBit 8 w.pend v, woff := w.woff + 1#4 }
  if w'.woff = 8#4 then emit w' else .ok () w'

/-- The loop of WRBITS and WRBYTE while `k` bits, `WVAL[k-1]` to `WVAL[0]`, are still to be written (R147, R150).
WIDX holds the position being written. -/
def writeLoop : Nat → WriteSide → Micro Unit WriteSide
  | 0, w => .ok () w
  | k + 1, w => (shiftIn (valueBit w.wval k) { w with widx := countRegister k }).bind fun _ w' => writeLoop k w'

/-- The loop of PAD and FLUSH while `k` zero bits are still to be written (R153, R159). WIDX holds the zero bits
left after the one being written (log 10). -/
def padLoop : Nat → WriteSide → Micro Unit WriteSide
  | 0, w => .ok () w
  | k + 1, w => (shiftIn false { w with widx := countRegister k }).bind fun _ w' => padLoop k w'

/-- PAD's body (R153): nothing when byte-aligned, else `8 - WOFF` zero bits. -/
def padToByte (w : WriteSide) : Micro Unit WriteSide :=
  if w.woff = 0#4 then .ok () w else padLoop (padCount w.woff) w

/-- The part of `SinkFlush()` after the answer has come (R57, R159). -/
def flushAnswered (a : SnkAnswer) (w : WriteSide) : Micro Unit WriteSide :=
  match flushReply a with
  | .done => .ok () { w with drained := w.accepted.length }
  | .ioerr c => .raise (.underlyingIOError c) w

/-- `SinkFlush()` (R57): one FLUSH request, and its answer if the sink gives it without delay. -/
def sinkFlush (w : WriteSide) : Micro Unit WriteSide :=
  match w.answers with
  | [] => .blocked w
  | a :: rest => flushAnswered a { w with requests := w.requests ++ [.flush], answers := rest }

/-- The end of a stretch of a BW command: the OK response, the wait for the sink, or the error. -/
def bwFinish (j : BwJob) (m : Micro Unit WriteSide) : WriteSide :=
  match m with
  | .ok _ w => bwOk w
  | .blocked w => { w with phase := .requesting j }
  | .raise e w => bwRaise e w

/-- The second half of FLUSH: the sink flush after the padding, and not if the padding failed (R159, R191). -/
def bwFinishFlush (m : Micro Unit WriteSide) : WriteSide :=
  match m with
  | .ok _ w => bwFinish .flushSink (sinkFlush w)
  | .blocked w => { w with phase := .requesting .flushPad }
  | .raise e w => bwRaise e w

/-- The request a BW command waits with: K_REQ_OP and K_REQ_BYTE (spec/20_memory.md rule R58). -/
def bwRequest (j : BwJob) (w : WriteSide) : SnkRequest :=
  match j with
  | .wrbit => .write w.pend
  | .wrbits => .write w.pend
  | .wrbyte => .write w.pend
  | .pad => .write w.pend
  | .fpad => .write w.pend
  | .flushPad => .write w.pend
  | .flushSink => .flush

/-- The sink answers an outstanding request: the EMIT or sink flush it belongs to ends, and the command goes on,
its loop counter standing in WIDX. -/
def bwResume (j : BwJob) (a : SnkAnswer) (w : WriteSide) : WriteSide :=
  match j with
  | .wrbit => bwFinish .wrbit (emitAnswered a w)
  | .wrbits => bwFinish .wrbits ((emitAnswered a w).bind fun _ w' => writeLoop w'.widx.toNat w')
  | .wrbyte => bwFinish .wrbyte ((emitAnswered a w).bind fun _ w' => writeLoop w'.widx.toNat w')
  | .pad => bwFinish .pad ((emitAnswered a w).bind fun _ w' => padLoop w'.widx.toNat w')
  | .fpad => bwFinish .fpad (emitAnswered a w)
  | .flushPad => bwFinishFlush ((emitAnswered a w).bind fun _ w' => padLoop w'.widx.toNat w')
  | .flushSink => bwFinish .flushSink (flushAnswered a w)

end Sys2Proof.Machine
end

