-- ==== Sys2Proof/Machine/Reader.lean ====
section
/-! DEFINITION. The commands of BR (spec/40_reader.md sections 3 to 5), each in the frame of rule R110. A BR command
acts on BR and its source port alone. -/

namespace Sys2Proof.Machine

/-- RDBIT on BR (R114). -/
def rdbitCommand (r : ReadSide) : ReadSide :=
  brFrame r fun r => brRun .rdbit r

/-- RDBITS n on BR (R116): the width check before anything is touched, then `n` bits into ACC. -/
def rdbitsCommand (n : Nat) (r : ReadSide) : ReadSide :=
  brFrame r fun r =>
    if tooWide n then brRaise .invalidBitWidth r
    else brRun .rdbits { r with acc := 0#128, bcnt := countRegister n }

/-- RDBYTE on BR (R119). -/
def rdbyteCommand (r : ReadSide) : ReadSide :=
  brFrame r fun r => brRun .rdbyte { r with acc := 0#128, bcnt := countRegister byteWidth }

/-- RDBIT. -/
def execRdbit (s : State) : Host.Outcome State Fault Refusal := .next { s with rd := rdbitCommand s.rd }

/-- RDBITS n. -/
def execRdbits (n : Nat) (s : State) : Host.Outcome State Fault Refusal := .next { s with rd := rdbitsCommand n s.rd }

/-- RDBYTE. -/
def execRdbyte (s : State) : Host.Outcome State Fault Refusal := .next { s with rd := rdbyteCommand s.rd }

end Sys2Proof.Machine
end

