-- ==== Sys2Proof/Machine/Writer.lean ====
section
/-! DEFINITION. The commands of BW (spec/41_writer.md sections 3 to 9), each in the frame of rule R140. A BW command
acts on BW and its sink port alone. -/

namespace Sys2Proof.Machine

/-- WRBIT on BW (R145): bit 0 of the value operand. -/
def wrbitCommand (val : Value) (w : WriteSide) : WriteSide :=
  bwFrame w fun w => bwFinish .wrbit (shiftIn (bitOperand val) { w with wval := val })

/-- WRBITS on BW (R147): the width check before anything is touched, then bits `n-1` down to 0 of the operand. -/
def wrbitsCommand (val : Value) (n : Nat) (w : WriteSide) : WriteSide :=
  bwFrame w fun w =>
    if tooWide n then bwRaise .invalidBitWidth w
    else bwFinish .wrbits (writeLoop n { w with wval := val })

/-- WRBYTE on BW (R150): bits 7 down to 0 of the value operand. -/
def wrbyteCommand (val : Value) (w : WriteSide) : WriteSide :=
  bwFrame w fun w => bwFinish .wrbyte (writeLoop byteWidth { w with wval := val })

/-- PAD on BW (R153). -/
def padCommand (w : WriteSide) : WriteSide :=
  bwFrame w fun w => bwFinish .pad (padToByte w)

/-- FPAD on BW (R156): EMIT at any fill level. -/
def fpadCommand (w : WriteSide) : WriteSide :=
  bwFrame w fun w => bwFinish .fpad (emit w)

/-- FLUSH on BW (R159): PAD, then the sink flush. -/
def flushCommand (w : WriteSide) : WriteSide :=
  bwFrame w fun w => bwFinishFlush (padToByte w)

/-- WRBIT. -/
def execWrbit (val : Value) (s : State) : Host.Outcome State Fault Refusal := .next { s with wr := wrbitCommand val s.wr }

/-- WRBITS. -/
def execWrbits (val : Value) (n : Nat) (s : State) : Host.Outcome State Fault Refusal :=
  .next { s with wr := wrbitsCommand val n s.wr }

/-- WRBYTE. -/
def execWrbyte (val : Value) (s : State) : Host.Outcome State Fault Refusal := .next { s with wr := wrbyteCommand val s.wr }

/-- PAD. -/
def execPad (s : State) : Host.Outcome State Fault Refusal := .next { s with wr := padCommand s.wr }

/-- FPAD. -/
def execFpad (s : State) : Host.Outcome State Fault Refusal := .next { s with wr := fpadCommand s.wr }

/-- FLUSH. -/
def execFlush (s : State) : Host.Outcome State Fault Refusal := .next { s with wr := flushCommand s.wr }

end Sys2Proof.Machine
end

