-- ==== Sys2Proof/Machine/Dispatch.lean ====
section
/-! DEFINITION. One arm per command: the meaning of a command its engine has taken. -/

namespace Sys2Proof.Machine

def exec (i : Instr) (s : State) : Host.Outcome State Fault Refusal :=
  match i with
  | .rdbit => Sys2Proof.Machine.execRdbit s
  | .rdbits n => Sys2Proof.Machine.execRdbits n s
  | .rdbyte => Sys2Proof.Machine.execRdbyte s
  | .wrbit val => Sys2Proof.Machine.execWrbit val s
  | .wrbits val n => Sys2Proof.Machine.execWrbits val n s
  | .wrbyte val => Sys2Proof.Machine.execWrbyte val s
  | .pad => Sys2Proof.Machine.execPad s
  | .fpad => Sys2Proof.Machine.execFpad s
  | .flush => Sys2Proof.Machine.execFlush s

end Sys2Proof.Machine
end

