-- ==== Sys2Proof/Machine/Events.lean ====
section
/-! DEFINITION. What the environment presents and what the machine does with it: the handshakes
(spec/30_encoding.md rules R82, R83), command frames (R110, R140), late stream answers (spec/20_memory.md rule R69)
and reset (spec/70_reset_and_hazards.md rules R210 to R213). -/

namespace Sys2Proof.Machine

/-- R_CMD_READY: BR is idle. R83 makes it 0 in a busy BR; that it is 1 in every idle one is a DESIGN CHOICE (log 21). -/
def BrPhase.isIdle : BrPhase → Bool
  | .idle => true
  | .requesting _ => false
  | .awaiting _ => false
  | .responding _ => false

/-- S_REQ_VALID (R53). -/
def BrPhase.isRequesting : BrPhase → Bool
  | .idle => false
  | .requesting _ => true
  | .awaiting _ => false
  | .responding _ => false

/-- S_ANS_READY: "only while one is outstanding" (R53); that it is 1 all that while is a DESIGN CHOICE (log 21). -/
def BrPhase.isAwaiting : BrPhase → Bool
  | .idle => false
  | .requesting _ => false
  | .awaiting _ => true
  | .responding _ => false

/-- R_RSP_VALID (R80). -/
def BrPhase.isResponding : BrPhase → Bool
  | .idle => false
  | .requesting _ => false
  | .awaiting _ => false
  | .responding _ => true

/-- W_CMD_READY: BW is idle. R83 makes it 0 in a busy BW; that it is 1 in every idle one is a DESIGN CHOICE (log 21). -/
def BwPhase.isIdle : BwPhase → Bool
  | .idle => true
  | .requesting _ => false
  | .awaiting _ => false
  | .responding _ => false

/-- K_REQ_VALID (R58). -/
def BwPhase.isRequesting : BwPhase → Bool
  | .idle => false
  | .requesting _ => true
  | .awaiting _ => false
  | .responding _ => false

/-- K_ANS_READY: only while a request is outstanding (R58, R194); that it is 1 all that while is a DESIGN CHOICE
(log 21). -/
def BwPhase.isAwaiting : BwPhase → Bool
  | .idle => false
  | .requesting _ => false
  | .awaiting _ => true
  | .responding _ => false

/-- W_RSP_VALID (R81). -/
def BwPhase.isResponding : BwPhase → Bool
  | .idle => false
  | .requesting _ => false
  | .awaiting _ => false
  | .responding _ => true

/-- The transfer of an event can happen now: the other side of its channel is ready (R82). DESIGN CHOICE (log 21): the
engine is ready whenever R83, R53, R58 and R194 let it be, where R82 lets it lower READY freely. A reset edge is
always seen. An event that cannot happen now stays presented. -/
def Event.ready (s : State) : Event → Bool
  | .brCommand _ => s.rd.phase.isIdle
  | .brTake => s.rd.phase.isResponding
  | .srcAccept => s.rd.phase.isRequesting
  | .srcAnswer _ => s.rd.phase.isAwaiting
  | .brReset => true
  | .bwCommand _ _ => s.wr.phase.isIdle
  | .bwTake => s.wr.phase.isResponding
  | .snkAccept => s.wr.phase.isRequesting
  | .snkAnswer _ => s.wr.phase.isAwaiting
  | .bwReset => true

/-- The first event that can happen now, and the inbox without it. All events of one channel are ready or not
together, so the order within a channel is kept. -/
def firstReady (s : State) : List Event → Option (Event × List Event)
  | [] => none
  | e :: es =>
    if e.ready s then some (e, es)
    else
      match firstReady s es with
      | some (e', es') => some (e', e :: es')
      | none => none

/-- The record of a word BR takes (log 11). -/
def brTook (w : CmdWord) (r : ReadSide) : ReadSide := { r with commands := r.commands ++ [w] }

/-- The record of a word BW takes (log 11). -/
def bwTook (c : CmdWord) (w : WriteSide) : WriteSide := { w with commands := w.commands ++ [c] }

/-- What BR does with a word: a legal one runs; an illegal one is answered EngineFaulted by a faulted engine, else
IllegalCommand, with no other effect (R110, R185, R191). -/
def brRunWord (w : CmdWord) (s : State) : Host.Outcome State Fault Refusal :=
  match decodeBR w with
  | .command i => exec i s
  | .illegal _ => .next { s with rd := brFrame s.rd fun r => brRefuse .illegalCommand r }

/-- BR takes a command word. -/
def brTakeWord (w : CmdWord) (s : State) : Host.Outcome State Fault Refusal :=
  brRunWord w { s with rd := brTook w s.rd }

/-- What BW does with a word and its value (R140, R185, R191). -/
def bwRunWord (w : CmdWord) (val : Value) (s : State) : Host.Outcome State Fault Refusal :=
  match decodeBW w val with
  | .command i => exec i s
  | .illegal _ => .next { s with wr := bwFrame s.wr fun w' => bwRefuse .illegalCommand w' }

/-- BW takes a command word with its value. -/
def bwTakeWord (w : CmdWord) (val : Value) (s : State) : Host.Outcome State Fault Refusal :=
  bwRunWord w val { s with wr := bwTook w s.wr }

/-- The host takes BR's response (R83). -/
def brResponseTaken (r : ReadSide) : ReadSide :=
  match r.phase with
  | .responding q => { r with phase := .idle, responses := r.responses ++ [q] }
  | .idle => r
  | .requesting _ => r
  | .awaiting _ => r

/-- The host takes BW's response (R83). -/
def bwResponseTaken (w : WriteSide) : WriteSide :=
  match w.phase with
  | .responding q => { w with phase := .idle, responses := w.responses ++ [q] }
  | .idle => w
  | .requesting _ => w
  | .awaiting _ => w

/-- The source takes BR's request; exactly one answer is now owed (R53). -/
def srcAccepted (r : ReadSide) : ReadSide :=
  match r.phase with
  | .requesting j => { r with phase := .awaiting j, fetches := r.fetches + 1 }
  | .idle => r
  | .awaiting _ => r
  | .responding _ => r

/-- The source answers the outstanding request (R54, R69). -/
def srcAnswered (a : SrcAnswer) (r : ReadSide) : ReadSide :=
  match r.phase with
  | .awaiting j => brResume j a r
  | .idle => r
  | .requesting _ => r
  | .responding _ => r

/-- The sink takes BW's request; exactly one answer is now owed (R58). -/
def snkAccepted (w : WriteSide) : WriteSide :=
  match w.phase with
  | .requesting j => { w with phase := .awaiting j, requests := w.requests ++ [bwRequest j w] }
  | .idle => w
  | .awaiting _ => w
  | .responding _ => w

/-- The sink answers the outstanding request (R56, R57, R69). -/
def snkAnswered (a : SnkAnswer) (w : WriteSide) : WriteSide :=
  match w.phase with
  | .awaiting j => bwResume j a w
  | .idle => w
  | .requesting _ => w
  | .responding _ => w

/-- A reset edge of BR: defined for an idle engine, refused in the middle of a command (R210, R213). -/
def brResetEdge (s : State) : Host.Outcome State Fault Refusal :=
  if s.rd.phase.isIdle then .next { s with rd := brReset s.rd } else .refused .resetMidCommand

/-- A reset edge of BW (R210, R213). -/
def bwResetEdge (s : State) : Host.Outcome State Fault Refusal :=
  if s.wr.phase.isIdle then .next { s with wr := bwReset s.wr } else .refused .resetMidCommand

/-- What an event that is ready does to the machine. -/
def Event.apply (e : Event) (s : State) : Host.Outcome State Fault Refusal :=
  match e with
  | .brCommand w => brTakeWord w s
  | .brTake => .next { s with rd := brResponseTaken s.rd }
  | .srcAccept => .next { s with rd := srcAccepted s.rd }
  | .srcAnswer a => .next { s with rd := srcAnswered a s.rd }
  | .brReset => brResetEdge s
  | .bwCommand w val => bwTakeWord w val s
  | .bwTake => .next { s with wr := bwResponseTaken s.wr }
  | .snkAccept => .next { s with wr := snkAccepted s.wr }
  | .snkAnswer a => .next { s with wr := snkAnswered a s.wr }
  | .bwReset => bwResetEdge s

/-! ### When a run is over (spec/70_reset_and_hazards.md rule R217) -/

/-- A command for BR is presented before the next reset edge of BR: its host means to issue one in this run. -/
def brCommandAhead : List Event → Bool
  | [] => false
  | .brCommand _ :: _ => true
  | .brReset :: _ => false
  | _ :: es => brCommandAhead es

/-- A command for BW is presented before the next reset edge of BW. -/
def bwCommandAhead : List Event → Bool
  | [] => false
  | .bwCommand _ _ :: _ => true
  | .bwReset :: _ => false
  | _ :: es => bwCommandAhead es

/-- BR's run is over: every command issued since reset is answered, every response taken, and no further command is
meant. "It is over when the host has taken the response to the last command it means to issue" (R217). -/
def brRunOver (s : State) : Bool := s.rd.phase.isIdle && !brCommandAhead s.inbox

/-- BW's run is over (R217). -/
def bwRunOver (s : State) : Bool := s.wr.phase.isIdle && !bwCommandAhead s.inbox

/-- Why nothing presented can happen: both runs are over, or an engine waits. "A run in which the engine waits for
ever for a stream answer is not over" (R217). -/
def stopReason (s : State) : Fault := if brRunOver s && bwRunOver s then .runOver else .awaitingEnvironment

/-- The event that presents a command on its port. -/
def presents (e : Encoded) : Event :=
  match e.port with
  | .br => .brCommand e.word
  | .bw => .bwCommand e.word e.val

/-- The state in which a command is the first thing its idle engine is offered. -/
def offer (e : Encoded) (s : State) : State :=
  match e.port with
  | .br => { s with rd := { s.rd with phase := .idle }, inbox := presents e :: s.inbox }
  | .bw => { s with wr := { s.wr with phase := .idle }, inbox := presents e :: s.inbox }

end Sys2Proof.Machine
end

