-- ==== Sys2Proof/Machine/Step.lean ====
section
/-! DEFINITION. One step: the first event of the inbox that can happen now, with everything its engine does before
it next needs its environment (spec/00_scope.md rule R10). -/

namespace Sys2Proof.Machine

/-- Three outcomes: a next state; when nothing presented can happen, the fault `runOver` or `awaitingEnvironment`
(spec/70_reset_and_hazards.md rule R217, spec/20_memory.md rule R69); the refusal of a reset in the middle of a
command. -/
def step (s : State) : Host.Outcome State Fault Refusal :=
  match firstReady s s.inbox with
  | none => .fault (stopReason s)
  | some (e, rest) => e.apply { s with inbox := rest }

/-- `s` with an opcode-table word presented first on its port, W_VAL being zeros, to an engine made idle (log 8). -/
def State.withFetchWord (s : State) (nbits w : Nat) : State :=
  offer ⟨wordPort (tableWord nbits w), tableWord nbits w, 0#128⟩ s

end Sys2Proof.Machine
end

