-- ==== Sys2Proof/Machine/Ports.lean ====
section
/-! DEFINITION. The output signals of the two engines as functions of the state (spec/30_encoding.md rules R80, R81,
R90, R91; spec/20_memory.md rules R53, R58). The payload of a channel is meaningful while its VALID is high. R82
lets a receiver raise and lower READY freely and says nothing of when a transfer happens: that READY is high whenever
the rules let it be, and VALID from the step in which its item arises, is the model's DESIGN CHOICE (log 21). -/

namespace Sys2Proof.Machine

/-- R_CMD_READY: 0 in a busy BR (R83); 1 in every idle one is a DESIGN CHOICE (log 21). -/
def rCmdReady (s : State) : Bool := s.rd.phase.isIdle

/-- R_RSP_VALID. -/
def rRspValid (s : State) : Bool := s.rd.phase.isResponding

/-- The response BR presents: R_RSP_STATUS, R_RSP_DATA, R_RSP_IOCODE (R90). -/
def rRsp (s : State) : Option (BitVec 4 × Value × IoCode) :=
  match s.rd.phase with
  | .responding q => some (q.status.code, q.data, q.iocode)
  | .idle => none
  | .requesting _ => none
  | .awaiting _ => none

/-- S_REQ_VALID. -/
def sReqValid (s : State) : Bool := s.rd.phase.isRequesting

/-- S_ANS_READY: 1 only while a request is outstanding (R53); all that while is a DESIGN CHOICE (log 21). -/
def sAnsReady (s : State) : Bool := s.rd.phase.isAwaiting

/-- W_CMD_READY: 0 in a busy BW (R83); 1 in every idle one is a DESIGN CHOICE (log 21). -/
def wCmdReady (s : State) : Bool := s.wr.phase.isIdle

/-- W_RSP_VALID. -/
def wRspValid (s : State) : Bool := s.wr.phase.isResponding

/-- The response BW presents: W_RSP_STATUS, W_RSP_IOCODE (R91). -/
def wRsp (s : State) : Option (BitVec 4 × IoCode) :=
  match s.wr.phase with
  | .responding q => some (q.status.code, q.iocode)
  | .idle => none
  | .requesting _ => none
  | .awaiting _ => none

/-- K_REQ_VALID. -/
def kReqValid (s : State) : Bool := s.wr.phase.isRequesting

/-- K_REQ_OP and K_REQ_BYTE of a request: 0 and the byte for WRITE, 1 and 0 for FLUSH (R58). -/
def SnkRequest.signals : SnkRequest → BitVec 1 × Byte
  | .write b => (0#1, b)
  | .flush => (1#1, 0#8)

/-- The request BW presents: K_REQ_OP, K_REQ_BYTE. -/
def kReq (s : State) : Option (BitVec 1 × Byte) :=
  match s.wr.phase with
  | .requesting j => some (bwRequest j s.wr).signals
  | .idle => none
  | .awaiting _ => none
  | .responding _ => none

/-- K_ANS_READY: 1 only while a request is outstanding (R58, R194); all that while is a DESIGN CHOICE (log 21). -/
def kAnsReady (s : State) : Bool := s.wr.phase.isAwaiting

end Sys2Proof.Machine
end

