-- ==== Sys2Proof/Machine/Pseudo.lean ====
section
/-! DEFINITION. The pseudo-commands, which the host performs (spec/30_encoding.md rule R95, spec/40_reader.md rule
R121, spec/41_writer.md rule R152). No engine decodes them. The host's count is an unbounded natural number
(HOSTCOUNT, spec/00_scope.md rule R6). -/

namespace Sys2Proof.Machine

/-- How a pseudo-command ends: success, the first status that is not OK, or a response that has not come because
the stream has not answered (spec/20_memory.md rule R69). -/
inductive HostResult (α : Type) where
  | succeed (a : α) (s : State)
  | fail (st : Status) (s : State)
  | waiting (s : State)
  deriving DecidableEq, Repr

/-- The response that waits on BR's response port. -/
def BrPhase.response : BrPhase → Option BrResponse
  | .responding q => some q
  | .idle => none
  | .requesting _ => none
  | .awaiting _ => none

/-- The response that waits on BW's response port. -/
def BwPhase.response : BwPhase → Option BwResponse
  | .responding q => some q
  | .idle => none
  | .requesting _ => none
  | .awaiting _ => none

/-- Issue one BR command and take its response: the host's part of the handshake (R83). It is meant for an idle BR,
where a host that keeps R83 and R220 issues. On a BR that is not idle it runs the command all the same, and a command or
response in progress is dropped: DESIGN CHOICE (log 20). -/
def issueBr (i : Instr) (s : State) : HostResult Value :=
  match exec i { s with rd := brTook (encode i).word s.rd } with
  | .next t =>
    match t.rd.phase.response with
    | some q =>
      if q.status = .ok then .succeed q.data { t with rd := brResponseTaken t.rd }
      else .fail q.status { t with rd := brResponseTaken t.rd }
    | none => .waiting t
  | .fault _ => .waiting s
  | .refused _ => .waiting s

/-- Issue one BW command and take its response: as `issueBr`, and on a BW that is not idle the same DESIGN CHOICE
(log 20). -/
def issueBw (i : Instr) (s : State) : HostResult Unit :=
  match exec i { s with wr := bwTook (encode i).word s.wr } with
  | .next t =>
    match t.wr.phase.response with
    | some q =>
      if q.status = .ok then .succeed () { t with wr := bwResponseTaken t.wr }
      else .fail q.status { t with wr := bwResponseTaken t.wr }
    | none => .waiting t
  | .fault _ => .waiting s
  | .refused _ => .waiting s

/-- Go on after a success. -/
def HostResult.bind {α β : Type} (m : HostResult α) (f : α → State → HostResult β) : HostResult β :=
  match m with
  | .succeed a s => f a s
  | .fail st s => .fail st s
  | .waiting s => .waiting s

/-- RDBYTES n (R121). -/
def rdbytes : Nat → State → HostResult (List Byte)
  | 0, s => .succeed [] s
  | n + 1, s => (issueBr .rdbyte s).bind fun d t =>
      (rdbytes n t).bind fun out u => .succeed (d.setWidth 8 :: out) u

/-- WRBYTES b0, b1, ... (R152). -/
def wrbytes : List Byte → State → HostResult Unit
  | [], s => .succeed () s
  | b :: bs, s => (issueBw (.wrbyte (b.setWidth 128)) s).bind fun _ t => wrbytes bs t

/-- A host that writes fields of given widths, one WRBITS each. -/
def writeFields : List (Value × Nat) → State → HostResult Unit
  | [], s => .succeed () s
  | (v, n) :: fs, s => (issueBw (.wrbits v n) s).bind fun _ t => writeFields fs t

/-- A host that reads fields of given widths, one RDBITS each. -/
def readFields : List Nat → State → HostResult (List Value)
  | [], s => .succeed [] s
  | n :: ns, s => (issueBr (.rdbits n) s).bind fun d t =>
      (readFields ns t).bind fun out u => .succeed (d :: out) u

end Sys2Proof.Machine
end

