-- ==== Sys2Proof/Safety.lean ====
section
/-! DEFINITION. What counts as a safe state and a session that ended well, and the words the statements use: bit
strings (spec/20_memory.md rule R61), what a stream answers, and the invariants of the registers (spec/10_state.md rules
R23, R24, R33, R35). -/

namespace Sys2Proof.Machine

/-! ### Bit strings -/

/-- The low `n` bits of a number, most significant first (R60). -/
def msbBits : Nat → Nat → List Bool
  | 0, _ => []
  | n + 1, v => v.testBit n :: msbBits n v

/-- A bit string read as a number, the first bit most significant (R60). -/
def bitsValue (q : List Bool) : Nat := q.foldl (fun x b => 2 * x + b.toNat) 0

/-- A stream of bytes as one bit string: stream bit 0 is bit 7 of byte 0 (R61). -/
def streamBits (bs : List Byte) : List Bool := bs.flatMap fun b => msbBits 8 b.toNat

/-- The unread bits of CUR: `CUR[7]` down to `CUR[ROFF]` (R24, R118). -/
def ReadSide.unread (r : ReadSide) : List Bool := (msbBits 8 r.cur.toNat).take (8 - r.roff.toNat)

/-! ### What the streams answer -/

/-- The answers `as` hand out exactly the bytes `bs` (R54). -/
def AnswerBytes (as : List SrcAnswer) (bs : List Byte) : Prop := as.map srcReply = bs.map SrcReply.byte

/-- The answers `as`, given to writes, all say ACCEPTED (R56). -/
def AllAccepted (as : List SnkAnswer) : Prop := ∀ a ∈ as, writeReply a = .accepted

/-- A source answer that hands out a byte, in the finite source of R71. -/
def byteAnswer (b : Byte) : SrcAnswer := ⟨0#2, b, 0#Config.iocodeW⟩

/-- A sink answer of the recording sink of R71: ACCEPTED for a WRITE, DONE for a FLUSH. -/
def goodAnswer : SnkAnswer := ⟨0#2, 0#Config.iocodeW⟩

/-- The bytes of the WRITE requests among some sink requests, in order. -/
def writtenBytes : List SnkRequest → List Byte
  | [] => []
  | .write b :: qs => b :: writtenBytes qs
  | .flush :: qs => writtenBytes qs

/-! ### BR -/

/-- The lookahead of an unfaulted BR between two transfers: ROFF is 1 to 8, and CUR is the byte most recently
loaded shifted left by ROFF; before the first REFILL CUR is 0 and ROFF is 8 (R23, R24). -/
def ReadSide.lookaheadInv (r : ReadSide) : Prop :=
  1 ≤ r.roff.toNat ∧ r.roff.toNat ≤ 8 ∧
    match r.taken.getLast? with
    | some b => r.cur = b <<< r.roff.toNat
    | none => r.cur = 0#8 ∧ r.roff = 8#4

/-- The count CNT of the last word BR took (R84); 0 before the first. -/
def ReadSide.countAsked (r : ReadSide) : Nat :=
  match r.commands.getLast? with
  | some w => countOperand (cntField w)
  | none => 0

/-- What a BR command in progress has left to do: BCNT bits, at least one, of those asked; and ACC is below 2 to the
number of bits read (R117). -/
def ReadSide.jobInv (r : ReadSide) : BrJob → Prop
  | .rdbit => True
  | .rdbits => 1 ≤ r.bcnt.toNat ∧ r.bcnt.toNat ≤ r.countAsked ∧ r.countAsked ≤ 128 ∧
      r.acc.toNat < 2 ^ (r.countAsked - r.bcnt.toNat)
  | .rdbyte => 1 ≤ r.bcnt.toNat ∧ r.bcnt.toNat ≤ 8 ∧ r.acc.toNat < 2 ^ (8 - r.bcnt.toNat)

/-- A response of BR has the form of R90. -/
def BrResponse.wf (q : BrResponse) : Prop :=
  (q.status ≠ .ok → q.data = 0#128) ∧ (q.status ≠ .underlyingIOError → q.iocode = 0#Config.iocodeW) ∧
    q.status ≠ .zeroBytesWritten

/-- BR waits for its source only in REFILL: unfaulted, ROFF = 8 and no prompt answer left (R111, R113). While a
response is presented RFLT is set exactly if the status says so (R188, R189). -/
def ReadSide.phaseInv (r : ReadSide) : Prop :=
  match r.phase with
  | .idle => True
  | .requesting j => r.rflt = false ∧ r.roff = 8#4 ∧ r.answers = [] ∧ r.jobInv j
  | .awaiting j => r.rflt = false ∧ r.roff = 8#4 ∧ r.answers = [] ∧ r.jobInv j
  | .responding q => q.wf ∧
      (r.rflt = true ↔ q.status ∈ [Status.unexpectedEndOfInput, .underlyingIOError, .engineFaulted])

/-- The responses of the session so far, the one presented among them. -/
def ReadSide.answered (r : ReadSide) : List BrResponse := r.responses ++ r.phase.response.toList

/-- The opcode of the command in progress. -/
def BrJob.opcode : BrJob → Opcode
  | .rdbit => .rdbit
  | .rdbits => .rdbits
  | .rdbyte => .rdbyte

/-- The record of BR's session: one response for each command taken (R83), a command in progress is the last one
taken, and RFLT is set exactly if some command of the session has ended with a stream error (R26, R188, R211). -/
def ReadSide.sessionInv (r : ReadSide) : Prop :=
  (r.rflt = true ↔ ∃ q ∈ r.answered, q.status ∈ [Status.unexpectedEndOfInput, .underlyingIOError]) ∧
    match r.phase with
    | .idle => r.commands.length = r.responses.length
    | .requesting j => r.commands.length = r.responses.length + 1 ∧
        r.commands.getLast?.map opcField = some j.opcode.number
    | .awaiting j => r.commands.length = r.responses.length + 1 ∧
        r.commands.getLast?.map opcField = some j.opcode.number
    | .responding _ => r.commands.length = r.responses.length + 1

/-- The invariant of BR. It says nothing of CUR and ROFF while RFLT is set (R189). -/
def ReadSide.Inv (r : ReadSide) : Prop := (r.rflt = false → r.lookaheadInv) ∧ r.phaseInv ∧ r.sessionInv

/-! ### BW -/

/-- "At every command boundary of an unfaulted BW, `PEND < 2^WOFF`" with WOFF at most 7 (R33, R35). -/
def WriteSide.pendingInv (w : WriteSide) : Prop := w.woff.toNat ≤ 7 ∧ w.pend.toNat < 2 ^ w.woff.toNat

/-- Where a BW command stands while it waits for its sink: a completed byte (WOFF = 8) in SHIFTIN's EMIT, the
pending bits in FPAD's, nothing pending in the sink flush. What WIDX holds meanwhile is log 10. -/
def WriteSide.jobInv (w : WriteSide) : BwJob → Prop
  | .wrbit => w.woff = 8#4
  | .wrbits => w.woff = 8#4 ∧ w.widx.toNat ≤ 127
  | .wrbyte => w.woff = 8#4 ∧ w.widx.toNat ≤ 7
  | .pad => w.woff = 8#4 ∧ w.widx = 0#8
  | .fpad => w.pendingInv
  | .flushPad => w.woff = 8#4 ∧ w.widx = 0#8
  | .flushSink => w.woff = 0#4 ∧ w.pend = 0#8

/-- A response of BW has the form of R91. -/
def BwResponse.wf (q : BwResponse) : Prop :=
  (q.status ≠ .underlyingIOError → q.iocode = 0#Config.iocodeW) ∧ q.status ≠ .unexpectedEndOfInput

/-- The accepted bytes are bytes offered, in the order offered (R66), and those a DONE covers are among them. -/
def WriteSide.sinkInv (w : WriteSide) : Prop :=
  w.drained ≤ w.accepted.length ∧ w.accepted.Sublist (writtenBytes w.requests)

/-- BW waits for its sink unfaulted and with no prompt answer left; an outstanding request is the last one sent. While
a response is presented WFLT is set exactly if the status says so (R188, R189). -/
def WriteSide.phaseInv (w : WriteSide) : Prop :=
  match w.phase with
  | .idle => w.wflt = false → w.pendingInv
  | .requesting j => w.wflt = false ∧ w.answers = [] ∧ w.jobInv j
  | .awaiting j => w.wflt = false ∧ w.answers = [] ∧ w.jobInv j ∧
      ∃ before, w.requests = before ++ [bwRequest j w] ∧ w.accepted.Sublist (writtenBytes before)
  | .responding q => (w.wflt = false → w.pendingInv) ∧ q.wf ∧
      (w.wflt = true ↔ q.status ∈ [Status.zeroBytesWritten, .underlyingIOError, .engineFaulted])

/-- The responses of the session so far, the one presented among them. -/
def WriteSide.answered (w : WriteSide) : List BwResponse := w.responses ++ w.phase.response.toList

/-- The opcode of the command in progress. -/
def BwJob.opcode : BwJob → Opcode
  | .wrbit => .wrbit
  | .wrbits => .wrbits
  | .wrbyte => .wrbyte
  | .pad => .pad
  | .fpad => .fpad
  | .flushPad => .flush
  | .flushSink => .flush

/-- The last command taken was a FLUSH, and its response, presented or taken, is OK (R215). -/
def WriteSide.flushedLast (w : WriteSide) : Prop :=
  w.commands.getLast? = some (cmdWord .flush 0) ∧ w.answered.getLast?.map BwResponse.status = some .ok

/-- Nothing of BW's session is left behind: nothing pending, no fault, every accepted byte covered by a sink flush
(R215). -/
def WriteSide.nothingLeft (w : WriteSide) : Prop :=
  w.woff = 0#4 ∧ w.pend = 0#8 ∧ w.wflt = false ∧ w.drained = w.accepted.length

/-- The record of BW's session: one response for each command taken (R83), a command in progress is the last one
taken, WFLT is set exactly if some command of the session has ended with a stream error (R34, R188, R211), and after a
FLUSH answered OK nothing is left behind (R159, R215). -/
def WriteSide.sessionInv (w : WriteSide) : Prop :=
  (w.wflt = true ↔ ∃ q ∈ w.answered, q.status ∈ [Status.zeroBytesWritten, .underlyingIOError]) ∧
    match w.phase with
    | .idle => w.commands.length = w.responses.length ∧ (w.flushedLast → w.nothingLeft)
    | .requesting j => w.commands.length = w.responses.length + 1 ∧
        w.commands.getLast?.map opcField = some j.opcode.number
    | .awaiting j => w.commands.length = w.responses.length + 1 ∧
        w.commands.getLast?.map opcField = some j.opcode.number
    | .responding _ => w.commands.length = w.responses.length + 1 ∧ (w.flushedLast → w.nothingLeft)

/-- The invariant of BW. It says nothing of PEND and WOFF while WFLT is set (R189). -/
def WriteSide.Inv (w : WriteSide) : Prop := w.sinkInv ∧ w.phaseInv ∧ w.sessionInv

/-- The invariant of the machine. -/
def State.Inv (s : State) : Prop := s.rd.Inv ∧ s.wr.Inv

/-! ### Sessions -/

/-- A BW session has ended well, its last response taken: "its last command was a FLUSH answered OK" (R215). -/
def WriteSide.endedWell (w : WriteSide) : Prop := w.phase = .idle ∧ w.flushedLast

/-- A BR session has ended well, its last response taken: "every command got status OK" (R216). -/
def ReadSide.endedWell (r : ReadSide) : Prop := r.phase = .idle ∧ ∀ q ∈ r.responses, q.status = .ok

/-- BR's run is over with RFLT set: over, and not ended well (R217). -/
def State.brRunFailed (s : State) : Prop := brRunOver s = true ∧ s.rd.rflt = true

/-- BW's run is over with WFLT set: over, and not ended well (R217). -/
def State.bwRunFailed (s : State) : Prop := bwRunOver s = true ∧ s.wr.wflt = true

/-- A step is safe when it does not ask for what the model refuses. -/
def StepSafe (s : State) : Prop := ∀ why, step s ≠ .refused why

end Sys2Proof.Machine
end

