-- ==== Sys2Proof/Certificates/Slice0/Obligations.lean ====
section
/-! DEFINITION. The statements for the provers, about the machine alone. In a statement about a command, the state
is any state; a premise on the state says in the spec's words where the command has the effect stated. "Prompt
answers" are those the stream gives without delay (log 4); the two statements LateSourceAnswerIsAsGoodAsPrompt and
LateSinkAnswerIsAsGoodAsPrompt carry every other statement over to a stream that answers later. -/

open Sys2Proof Sys2Proof.Machine

/-! ### Encodings -/

/-- Words written out from R88 and R94 decode to the commands they stand for, and words R89 names are no commands. That
WRBIT and WRBYTE carry all of W_VAL is the reading of log 9. -/
def Obligations.WordsOfEveryCommandDecode : Prop :=
  decodeBR 0b0000000100000000#16 = .command .rdbit ∧
  decodeBR 0b0000001010000001#16 = .command (.rdbits 129) ∧
  decodeBR 0b0000001100000000#16 = .command .rdbyte ∧
  decodeBW 0b0001000100000000#16 0xFE#128 = .command (.wrbit 0xFE#128) ∧
  decodeBW 0b0001001000000101#16 0x1F#128 = .command (.wrbits 0x1F#128 5) ∧
  decodeBW 0b0001001100000000#16 0xFB#128 = .command (.wrbyte 0xFB#128) ∧
  decodeBW 0b0001010000000000#16 7#128 = .command .pad ∧
  decodeBW 0b0001010100000000#16 7#128 = .command .fpad ∧
  decodeBW 0b0001011000000000#16 7#128 = .command .flush ∧
  (decodeBR 0x0101#16).command? = none ∧ (decodeBR 0x1100#16).command? = none ∧
  (decodeBR 0x0000#16).command? = none ∧ (decodeBW 0x0100#16 0#128).command? = none ∧
  (decodeBW 0x16FF#16 0#128).command? = none ∧ (decodeBW 0x1700#16 0#128).command? = none

/-- Every command whose count fits CNT is read back from the words it is written as, operands whole. -/
def Obligations.EncodedCommandDecodesBack : Prop :=
  ∀ i : Instr, i.wellFormed = true → (encode i).port = i.port ∧ decode (encode i) = .command i

/-- A word has one meaning: what a port decodes as a command is the word that command is written as, and its count
fits CNT. -/
def Obligations.DecodedCommandEncodesBack : Prop :=
  ∀ (p : Port) (w : CmdWord) (val : Value) (i : Instr), decodeOn p w val = .command i →
    i.wellFormed = true ∧ (encode i).port = p ∧ (encode i).word = w ∧
      decodeOn p (encode i).word (encode i).val = .command i

/-- R88: a word is a command on a port exactly when it selects a row of that port's map, the command is the row's,
and no word selects two rows of one port. -/
def Obligations.CommandIsTheOneRowItsWordSelects : Prop :=
  ∀ (p : Port) (w : CmdWord) (val : Value),
    ((opcodeMap.filter fun row => row.port == p && row.selects w).map fun row => row.mnemonic) =
      ((decodeOn p w val).command?.map Instr.mnemonic).toList

/-- R89: which words are illegal on each port. -/
def Obligations.IllegalWordsOfEachPort : Prop :=
  ∀ (w : CmdWord) (val : Value),
    ((decodeBR w).command? = none ↔
      (opcField w ∉ [0x01#8, 0x02#8, 0x03#8] ∨ (opcField w ∈ [0x01#8, 0x03#8] ∧ cntField w ≠ 0#8))) ∧
    ((decodeBW w val).command? = none ↔
      (opcField w ∉ [0x11#8, 0x12#8, 0x13#8, 0x14#8, 0x15#8, 0x16#8] ∨
        (opcField w ∈ [0x11#8, 0x13#8, 0x14#8, 0x15#8, 0x16#8] ∧ cntField w ≠ 0#8)))

/-! ### Reset -/

/-- R40, R210: the registers right after reset, both engines idle, no signal of R210 asserted. The working registers
are left out: the spec gives them no value. -/
def Obligations.RegistersAfterReset : Prop :=
  State.reset.rd.roff = 8#4 ∧ State.reset.rd.cur = 0#8 ∧ State.reset.rd.rflt = false ∧
  State.reset.wr.woff = 0#4 ∧ State.reset.wr.pend = 0#8 ∧ State.reset.wr.wflt = false ∧
  State.reset.rd.phase = .idle ∧ State.reset.wr.phase = .idle ∧
  rRspValid State.reset = false ∧ wRspValid State.reset = false ∧ sReqValid State.reset = false ∧
  kReqValid State.reset = false

/-- R211, R212: a reset edge of an idle engine, also a faulted one, puts the registers at their reset values and the
engine at idle; the stream's answers, position and content and the other engine are as before; the record of the
session (log 11) starts anew. -/
def Obligations.ResetOfIdleEngine : Prop :=
  (∀ (s : State) (rest : List Event), s.inbox = .brReset :: rest → s.rd.phase = .idle →
    ∃ t, step s = .next t ∧ t.rd.cur = 0#8 ∧ t.rd.roff = 8#4 ∧ t.rd.rflt = false ∧ t.rd.phase = .idle ∧
      t.rd.answers = s.rd.answers ∧ t.rd.fetches = s.rd.fetches ∧ t.rd.taken = s.rd.taken ∧
      t.rd.commands = [] ∧ t.rd.responses = [] ∧ t.wr = s.wr ∧ t.inbox = rest) ∧
  (∀ (s : State) (rest : List Event), s.inbox = .bwReset :: rest → s.wr.phase = .idle →
    ∃ t, step s = .next t ∧ t.wr.pend = 0#8 ∧ t.wr.woff = 0#4 ∧ t.wr.wflt = false ∧ t.wr.phase = .idle ∧
      t.wr.answers = s.wr.answers ∧ t.wr.requests = s.wr.requests ∧ t.wr.accepted = s.wr.accepted ∧
      t.wr.drained = s.wr.drained ∧ t.wr.commands = [] ∧ t.wr.responses = [] ∧ t.rd = s.rd ∧ t.inbox = rest)

/-- R213: a reset edge in the middle of a command is refused. -/
def Obligations.ResetInMidCommandIsRefused : Prop :=
  (∀ (s : State) (rest : List Event), s.inbox = .brReset :: rest → s.rd.phase ≠ .idle →
    step s = .refused .resetMidCommand) ∧
  (∀ (s : State) (rest : List Event), s.inbox = .bwReset :: rest → s.wr.phase ≠ .idle →
    step s = .refused .resetMidCommand)

/-- Whatever a step does, a set latch is clear afterwards only if the step was a reset edge of that engine, which has
not touched the other (spec/70_reset_and_hazards.md section 1). The engine is then as `brReset` or `bwReset` leaves it: of
that, the zeros in ACC, BCNT, WVAL and WIDX are log 2 and the emptied record of the session is log 11. -/
def Obligations.OnlyResetClearsALatch : Prop :=
  ∀ s t : State, step s = .next t →
    (s.rd.rflt = true → t.rd.rflt = true ∨
      (Event.brReset ∈ s.inbox ∧ s.rd.phase = .idle ∧ t.rd = brReset s.rd ∧ t.wr = s.wr)) ∧
    (s.wr.wflt = true → t.wr.wflt = true ∨
      (Event.bwReset ∈ s.inbox ∧ s.wr.phase = .idle ∧ t.wr = bwReset s.wr ∧ t.rd = s.rd))

/-! ### The step and the handshakes -/

/-- The step in which an idle engine is offered a word first: a legal word runs as its command, an illegal one is
answered. The word is recorded (log 11); the other engine and the rest of the inbox play no part. That an idle engine
always takes it in this step is log 21. -/
def Obligations.StepRunsTheOfferedCommand : Prop :=
  (∀ (s : State) (w : CmdWord) (rest : List Event) (i : Instr), s.inbox = .brCommand w :: rest →
    s.rd.phase = .idle → decodeBR w = .command i →
    step s = exec i { s with inbox := rest, rd := { s.rd with commands := s.rd.commands ++ [w] } }) ∧
  (∀ (s : State) (w : CmdWord) (val : Value) (rest : List Event) (i : Instr),
    s.inbox = .bwCommand w val :: rest → s.wr.phase = .idle → decodeBW w val = .command i →
    step s = exec i { s with inbox := rest, wr := { s.wr with commands := s.wr.commands ++ [w] } })

/-- A well-formed command offered to its engine, made idle (`offer`, log 8), is what the very next step runs: in the
given state but for that engine being idle and the word recorded (log 11). That it is taken in this step is log 21. -/
def Obligations.OfferedCommandRunsNext : Prop :=
  ∀ (i : Instr) (s : State), i.wellFormed = true →
    (i.port = .br → step (offer (encode i) s) =
      exec i { s with rd := { s.rd with phase := .idle, commands := s.rd.commands ++ [(encode i).word] } }) ∧
    (i.port = .bw → step (offer (encode i) s) =
      exec i { s with wr := { s.wr with phase := .idle, commands := s.wr.commands ++ [(encode i).word] } })

/-- R89, R185, R189: an illegal word offered to an idle engine is answered IllegalCommand, or EngineFaulted when
the latch is set, and nothing but the response and the record of the word (log 11) changes. That it is taken in this
step is log 21. -/
def Obligations.IllegalWordIsAnsweredWithoutEffect : Prop :=
  (∀ (s : State) (w : CmdWord) (rest : List Event), s.inbox = .brCommand w :: rest → s.rd.phase = .idle →
    (decodeBR w).command? = none →
    step s = .next { s with
      inbox := rest
      rd := { s.rd with
        commands := s.rd.commands ++ [w]
        phase := .responding ⟨if s.rd.rflt then .engineFaulted else .illegalCommand, 0#128, 0#Config.iocodeW⟩ } }) ∧
  (∀ (s : State) (w : CmdWord) (val : Value) (rest : List Event), s.inbox = .bwCommand w val :: rest →
    s.wr.phase = .idle → (decodeBW w val).command? = none →
    step s = .next { s with
      inbox := rest
      wr := { s.wr with
        commands := s.wr.commands ++ [w]
        phase := .responding ⟨if s.wr.wflt then .engineFaulted else .illegalCommand, 0#Config.iocodeW⟩ } })

/-- R83: an engine that is not idle takes no command: after any step all its offered commands are still offered, in
their order. -/
def Obligations.BusyEngineTakesNoCommand : Prop :=
  ∀ s t : State, step s = .next t →
    (s.rd.phase ≠ .idle →
      t.inbox.filter (fun e => e matches .brCommand _) = s.inbox.filter (fun e => e matches .brCommand _)) ∧
    (s.wr.phase ≠ .idle →
      t.inbox.filter (fun e => e matches .bwCommand _ _) = s.inbox.filter (fun e => e matches .bwCommand _ _))

/-- R83: the host takes the response that is presented, the engine is idle then, and nothing else of it changes. -/
def Obligations.TakenResponseFreesTheEngine : Prop :=
  (∀ (s : State) (rest : List Event) (q : BrResponse), s.inbox = .brTake :: rest → s.rd.phase = .responding q →
    step s = .next { s with inbox := rest, rd := { s.rd with phase := .idle, responses := s.rd.responses ++ [q] } }) ∧
  (∀ (s : State) (rest : List Event) (q : BwResponse), s.inbox = .bwTake :: rest → s.wr.phase = .responding q →
    step s = .next { s with inbox := rest, wr := { s.wr with phase := .idle, responses := s.wr.responses ++ [q] } })

/-- R69: an engine with an outstanding request stays exactly as it is through every step but the one that takes an
answer presented for it, whatever else is presented. -/
def Obligations.WaitingEngineIsStuckUntilAnswered : Prop :=
  ∀ s t : State, step s = .next t →
    (∀ j, s.rd.phase = .awaiting j →
      t.rd = s.rd ∨ ∃ a, Event.srcAnswer a ∈ s.inbox ∧ t.rd = srcAnswered a s.rd ∧ t.wr = s.wr) ∧
    (∀ j, s.wr.phase = .awaiting j →
      t.wr = s.wr ∨ ∃ a, Event.snkAnswer a ∈ s.inbox ∧ t.wr = snkAnswered a s.wr ∧ t.rd = s.rd)

/-- R82: what an engine presents it keeps presenting, payload and all, through every step but the one in which the
other side takes it, whatever is presented; and what is taken is what was presented. -/
def Obligations.PresentedPayloadIsHeld : Prop :=
  ∀ s t : State, step s = .next t →
    (∀ q, s.rd.phase = .responding q → t.rd = s.rd ∨
      (Event.brTake ∈ s.inbox ∧ t.rd = { s.rd with phase := .idle, responses := s.rd.responses ++ [q] })) ∧
    (∀ j, s.rd.phase = .requesting j → t.rd = s.rd ∨
      (Event.srcAccept ∈ s.inbox ∧ t.rd = { s.rd with phase := .awaiting j, fetches := s.rd.fetches + 1 })) ∧
    (∀ q, s.wr.phase = .responding q → t.wr = s.wr ∨
      (Event.bwTake ∈ s.inbox ∧ t.wr = { s.wr with phase := .idle, responses := s.wr.responses ++ [q] })) ∧
    (∀ j, s.wr.phase = .requesting j → (t.wr = s.wr ∧ kReq t = kReq s) ∨
      (Event.snkAccept ∈ s.inbox ∧ ∃ q : SnkRequest, kReq s = some q.signals ∧
        t.wr = { s.wr with phase := .awaiting j, requests := s.wr.requests ++ [q] }))

/-- R53, R58: a request the stream takes is outstanding from then on, and is the one that was presented. -/
def Obligations.TakenRequestIsOutstanding : Prop :=
  (∀ (s : State) (rest : List Event) (j : BrJob), s.inbox = .srcAccept :: rest → s.rd.phase = .requesting j →
    step s = .next { s with inbox := rest, rd := { s.rd with phase := .awaiting j, fetches := s.rd.fetches + 1 } }) ∧
  (∀ (s : State) (rest : List Event) (j : BwJob), s.inbox = .snkAccept :: rest → s.wr.phase = .requesting j →
    ∃ (q : SnkRequest) (t : State), kReq s = some q.signals ∧ step s = .next t ∧
      t = { s with inbox := rest, wr := { s.wr with phase := .awaiting j, requests := s.wr.requests ++ [q] } } ∧
      (j = .flushSink → q = .flush ∧ q.signals = (1#1, 0#8)) ∧
      (j ≠ .flushSink → q = .write s.wr.pend ∧ q.signals = (0#1, s.wr.pend)))

/-- R69, R82, R217: the machine has no step exactly when no channel has both sides ready. The stop is runOver exactly
when both engines are idle, and then the run of each is over and no command is presented; else it is awaitingEnvironment.
That these stops are faults, and their names, are the model's (log 6), and so is that an engine is ready whenever the
rules let it be (log 21). -/
def Obligations.NoStepExactlyWhenNothingIsReady : Prop :=
  ∀ s : State,
    (step s = .fault .runOver ↔ (∀ e ∈ s.inbox, e.ready s = false) ∧ s.rd.phase = .idle ∧ s.wr.phase = .idle) ∧
    (step s = .fault .awaitingEnvironment ↔
      (∀ e ∈ s.inbox, e.ready s = false) ∧ ¬ (s.rd.phase = .idle ∧ s.wr.phase = .idle)) ∧
    (step s = .fault .runOver → brRunOver s = true ∧ bwRunOver s = true ∧
      (∀ w, Event.brCommand w ∉ s.inbox) ∧ ∀ w val, Event.bwCommand w val ∉ s.inbox)

/-- Every command in every state ends its step with a next state in which its engine presents a response or a
stream request: no command stops the model. And a command of an unfaulted engine waits where the answers given without
delay run out before it is done (log 4): it has done what they allow, and presents its next request, with no response
and no latch (R69). Of BR: the bits read stand in ACC, the number left in BCNT. Of BW: `bs` are the bytes of the writes
it has made and of the one it presents. That a FLUSH with WOFF = 0 leaves WIDX is log 10. -/
def Obligations.EveryCommandRespondsOrRequests : Prop :=
  (∀ (i : Instr) (s : State), ∃ t : State, exec i s = .next t ∧ t.inbox = s.inbox ∧
    (i.port = .br → t.wr = s.wr ∧ (t.rd.phase.isResponding = true ∨ t.rd.phase.isRequesting = true)) ∧
    (i.port = .bw → t.rd = s.rd ∧ (t.wr.phase.isResponding = true ∨ t.wr.phase.isRequesting = true))) ∧
  (∀ (i : Instr) (j : BrJob) (n : Nat) (s : State) (bs : List Byte),
    (i = .rdbit ∧ j = .rdbit ∧ n = 1 ∨ i = .rdbits n ∧ j = .rdbits ∧ n ≤ 128 ∨ i = .rdbyte ∧ j = .rdbyte ∧ n = 8) →
    s.rd.rflt = false → s.rd.roff.toNat ≤ 8 → AnswerBytes s.rd.answers bs →
    8 - s.rd.roff.toNat + 8 * bs.length < n →
    ∃ t : State, exec i s = .next t ∧ t.rd.phase = .requesting j ∧ t.rd.rflt = false ∧ t.rd.roff = 8#4 ∧
      t.rd.answers = [] ∧ t.rd.fetches = s.rd.fetches + bs.length ∧ t.rd.taken = s.rd.taken ++ bs ∧
      (j ≠ .rdbit → t.rd.acc.toNat = bitsValue (s.rd.unread ++ streamBits bs) ∧
        t.rd.bcnt.toNat = n - (8 - s.rd.roff.toNat + 8 * bs.length))) ∧
  (∀ (i : Instr) (j : BwJob) (v : Value) (n : Nat) (s : State) (bs : List Byte),
    (i = .wrbit v ∧ j = .wrbit ∧ n = 1 ∨ i = .wrbits v n ∧ j = .wrbits ∧ n ≤ 128 ∨
      i = .wrbyte v ∧ j = .wrbyte ∧ n = 8) →
    s.wr.wflt = false → s.wr.pendingInv → AllAccepted s.wr.answers →
    s.wr.answers.length < (s.wr.woff.toNat + n) / 8 →
    bs = (List.range (s.wr.answers.length + 1)).map (fun k =>
      BitVec.ofNat 8 ((s.wr.pend.toNat * 2 ^ n + v.toNat % 2 ^ n) >>>
        ((s.wr.woff.toNat + n) % 8 + 8 * ((s.wr.woff.toNat + n) / 8 - 1 - k)))) →
    ∃ t : State, exec i s = .next t ∧ t.wr.phase = .requesting j ∧ t.wr.wflt = false ∧ t.wr.answers = [] ∧
      kReq t = bs.getLast?.map (fun b => (0#1, b)) ∧
      t.wr.requests = s.wr.requests ++ (bs.take s.wr.answers.length).map SnkRequest.write ∧
      t.wr.accepted = s.wr.accepted ++ bs.take s.wr.answers.length ∧ t.wr.drained = s.wr.drained) ∧
  (∀ s : State, s.wr.wflt = false → s.wr.answers = [] →
    exec .fpad s = .next { s with wr := { s.wr with phase := .requesting .fpad } } ∧
    (s.wr.woff = 0#4 → exec .flush s = .next { s with wr := { s.wr with phase := .requesting .flushSink } })) ∧
  (∀ (i : Instr) (j : BwJob) (s : State), (i = .pad ∧ j = .pad ∨ i = .flush ∧ j = .flushPad) →
    s.wr.wflt = false → s.wr.pendingInv → s.wr.woff ≠ 0#4 → s.wr.answers = [] →
    ∃ t : State, exec i s = .next t ∧ t.wr.phase = .requesting j ∧ t.wr.wflt = false ∧ t.wr.answers = [] ∧
      kReq t = some (0#1, s.wr.pend <<< (8 - s.wr.woff.toNat)) ∧ t.wr.requests = s.wr.requests ∧
      t.wr.accepted = s.wr.accepted ∧ t.wr.drained = s.wr.drained) ∧
  (∀ (s : State) (a : SnkAnswer), s.wr.wflt = false → s.wr.pendingInv → s.wr.woff ≠ 0#4 → s.wr.answers = [a] →
    writeReply a = .accepted →
    ∃ t : State, exec .flush s = .next t ∧ t.wr.phase = .requesting .flushSink ∧ t.wr.wflt = false ∧
      t.wr.answers = [] ∧ kReq t = some (1#1, 0#8) ∧ t.wr.woff = 0#4 ∧ t.wr.pend = 0#8 ∧
      t.wr.requests = s.wr.requests ++ [.write (s.wr.pend <<< (8 - s.wr.woff.toNat))] ∧
      t.wr.accepted = s.wr.accepted ++ [s.wr.pend <<< (8 - s.wr.woff.toNat)] ∧ t.wr.drained = s.wr.drained)

/-! ### Errors -/

/-- R180: the code of every status; codes 7 to 15 are never produced. -/
def Obligations.StatusCodesOfTheTable : Prop :=
  Status.ok.code = 0#4 ∧ Status.unexpectedEndOfInput.code = 1#4 ∧ Status.invalidBitWidth.code = 2#4 ∧
  Status.zeroBytesWritten.code = 3#4 ∧ Status.underlyingIOError.code = 4#4 ∧ Status.illegalCommand.code = 5#4 ∧
  Status.engineFaulted.code = 6#4 ∧ ∀ st : Status, st.code.toNat < 7

/-- R189: a faulted engine answers every command with EngineFaulted, and only its response changes: every command that
runs on it, and every word it is offered, legal or not, which is recorded (log 11). That an idle engine takes the word
in this step is log 21. -/
def Obligations.FaultedEngineDoesNothingElse : Prop :=
  ∀ (i : Instr) (s : State),
    (i.port = .br → s.rd.rflt = true →
      exec i s = .next { s with rd := { s.rd with phase := .responding ⟨.engineFaulted, 0#128, 0#Config.iocodeW⟩ } }) ∧
    (i.port = .bw → s.wr.wflt = true →
      exec i s = .next { s with wr := { s.wr with phase := .responding ⟨.engineFaulted, 0#Config.iocodeW⟩ } }) ∧
    (∀ w rest, s.inbox = .brCommand w :: rest → s.rd.phase = .idle → s.rd.rflt = true →
      step s = .next { s with
        inbox := rest
        rd := { s.rd with
          commands := s.rd.commands ++ [w]
          phase := .responding ⟨.engineFaulted, 0#128, 0#Config.iocodeW⟩ } }) ∧
    (∀ w val rest, s.inbox = .bwCommand w val :: rest → s.wr.phase = .idle → s.wr.wflt = true →
      step s = .next { s with
        inbox := rest
        wr := { s.wr with
          commands := s.wr.commands ++ [w]
          phase := .responding ⟨.engineFaulted, 0#Config.iocodeW⟩ } })

/-- R182: a count above 128 is answered InvalidBitWidth before any register or stream is touched, and does not latch.
No other count and no other command is answered so. That a count above 255, which no word carries, is answered like 129
to 255 is log 13 (decision D5). -/
def Obligations.TooWideCountIsRefused : Prop :=
  (∀ (n : Nat) (s : State), 128 < n → s.rd.rflt = false →
    exec (.rdbits n) s = .next { s with rd := { s.rd with phase := .responding ⟨.invalidBitWidth, 0#128, 0#Config.iocodeW⟩ } }) ∧
  (∀ (v : Value) (n : Nat) (s : State), 128 < n → s.wr.wflt = false →
    exec (.wrbits v n) s = .next { s with wr := { s.wr with phase := .responding ⟨.invalidBitWidth, 0#Config.iocodeW⟩ } }) ∧
  (∀ (i : Instr) (s t : State) (q : BrResponse), i.port = .br → exec i s = .next t → t.rd.phase = .responding q →
    q.status = .invalidBitWidth → ∃ n, i = .rdbits n ∧ 128 < n) ∧
  (∀ (i : Instr) (s t : State) (q : BwResponse), i.port = .bw → exec i s = .next t → t.wr.phase = .responding q →
    q.status = .invalidBitWidth → ∃ v n, i = .wrbits v n ∧ 128 < n)

/-- R187: a word, legal or not, that is answered with a status that does not latch, other than OK, has had no effect at
all: only the response is there, and the record of the word (log 11). -/
def Obligations.RefusedCommandHasNoEffect : Prop :=
  (∀ (s t : State) (w : CmdWord) (rest : List Event) (q : BrResponse), s.inbox = .brCommand w :: rest →
    s.rd.phase = .idle → step s = .next t → t.rd.phase = .responding q →
    q.status ∈ [Status.invalidBitWidth, .illegalCommand, .engineFaulted] →
    t = { s with inbox := rest, rd := { s.rd with commands := s.rd.commands ++ [w], phase := .responding q } }) ∧
  (∀ (s t : State) (w : CmdWord) (val : Value) (rest : List Event) (q : BwResponse),
    s.inbox = .bwCommand w val :: rest → s.wr.phase = .idle → step s = .next t → t.wr.phase = .responding q →
    q.status ∈ [Status.invalidBitWidth, .illegalCommand, .engineFaulted] →
    t = { s with inbox := rest, wr := { s.wr with commands := s.wr.commands ++ [w], phase := .responding q } })

/-- R188: on an unfaulted engine a command sets the latch exactly when it ends with a stream error. -/
def Obligations.StreamErrorsLatchAndNothingElseDoes : Prop :=
  ∀ (i : Instr) (s t : State), exec i s = .next t →
    (s.rd.rflt = false → i.port = .br →
      (t.rd.rflt = true ↔ ∃ q, t.rd.phase = .responding q ∧
        q.status ∈ [Status.unexpectedEndOfInput, .underlyingIOError])) ∧
    (s.wr.wflt = false → i.port = .bw →
      (t.wr.wflt = true ↔ ∃ q, t.wr.phase = .responding q ∧
        q.status ∈ [Status.zeroBytesWritten, .underlyingIOError]))

/-- R90, R91, R190: the form of a response: DATA is zero on any status but OK, IOCODE is zero on any status but
UnderlyingIOError, and each engine reports its own kinds only. -/
def Obligations.ResponsesHaveTheStatedForm : Prop :=
  ∀ (i : Instr) (s t : State), exec i s = .next t →
    (∀ q, i.port = .br → t.rd.phase = .responding q →
      (q.status ≠ .ok → q.data = 0#128) ∧ (q.status ≠ .underlyingIOError → q.iocode = 0#Config.iocodeW) ∧
        q.status ≠ .zeroBytesWritten) ∧
    (∀ q, i.port = .bw → t.wr.phase = .responding q →
      (q.status ≠ .underlyingIOError → q.iocode = 0#Config.iocodeW) ∧ q.status ≠ .unexpectedEndOfInput)

/-! ### BR -/

/-- R113: READBIT makes one request when ROFF = 8 and none otherwise, and ROFF is 1 to 8 afterwards; where it raises,
the one request was made and nothing below REFILL has run. -/
def Obligations.ReadBitRefillsOnlyWhenExhausted : Prop :=
  (∀ (r r' : ReadSide) (e : Err), readBit r = .raise e r' →
    r.roff = 8#4 ∧ ∃ a, r.answers = a :: r'.answers ∧ r' = { r with fetches := r.fetches + 1, answers := r'.answers }) ∧
  ∀ (r r' : ReadSide) (b : Bool), r.roff.toNat ≤ 8 → readBit r = .ok b r' →
    1 ≤ r'.roff.toNat ∧ r'.roff.toNat ≤ 8 ∧
    (r.roff ≠ 8#4 → r'.fetches = r.fetches ∧ r'.answers = r.answers ∧ r'.taken = r.taken ∧ b = r.cur.msb ∧
      r'.cur = r.cur <<< 1 ∧ r'.roff = r.roff + 1#4) ∧
    (r.roff = 8#4 → r'.fetches = r.fetches + 1 ∧ r'.roff = 1#4 ∧
      ∃ a x, r.answers = a :: r'.answers ∧ srcReply a = .byte x ∧ r'.taken = r.taken ++ [x] ∧ b = x.msb ∧
        r'.cur = x <<< 1)

/-- R114: RDBIT inside the lookahead answers CUR[7] and cannot fail; at ROFF = 8 it fetches one byte and answers its
bit 7, or ends with the error of the answer, latched; with no prompt answer it waits with the
request of that fetch. How the model waits is log 4, that CUR and ROFF are as they were under a set latch is log 3, and
that ROFF 9 to 15 run as values below 8 do is log 12. -/
def Obligations.RdbitReadsTheNextBit : Prop :=
  ∀ s : State, s.rd.rflt = false →
    (s.rd.roff ≠ 8#4 →
      exec .rdbit s = .next { s with rd := { s.rd with
        cur := s.rd.cur <<< 1
        roff := s.rd.roff + 1#4
        phase := .responding ⟨.ok, (BitVec.ofBool s.rd.cur.msb).setWidth 128, 0#Config.iocodeW⟩ } }) ∧
    (∀ a rest, s.rd.roff = 8#4 → s.rd.answers = a :: rest →
      (∀ b, srcReply a = .byte b →
        exec .rdbit s = .next { s with rd := { s.rd with
          cur := b <<< 1
          roff := 1#4
          answers := rest
          fetches := s.rd.fetches + 1
          taken := s.rd.taken ++ [b]
          phase := .responding ⟨.ok, (BitVec.ofBool b.msb).setWidth 128, 0#Config.iocodeW⟩ } }) ∧
      (srcReply a = .eos →
        exec .rdbit s = .next { s with rd := { s.rd with
          rflt := true
          answers := rest
          fetches := s.rd.fetches + 1
          phase := .responding ⟨.unexpectedEndOfInput, 0#128, 0#Config.iocodeW⟩ } }) ∧
      (∀ c, srcReply a = .ioerr c →
        exec .rdbit s = .next { s with rd := { s.rd with
          rflt := true
          answers := rest
          fetches := s.rd.fetches + 1
          phase := .responding ⟨.underlyingIOError, 0#128, c⟩ } })) ∧
    (s.rd.roff = 8#4 → s.rd.answers = [] →
      exec .rdbit s = .next { s with rd := { s.rd with phase := .requesting .rdbit } })

/-- R118: the closed form of RDBITS for `1 <= n <= 128` with every fetch answered with a byte. `bs` are the bytes of
the fetches it needs, `as` the answers that hand them out. -/
def Obligations.RdbitsClosedForm : Prop :=
  ∀ (s : State) (n : Nat) (as rest : List SrcAnswer) (bs : List Byte),
    s.rd.rflt = false → s.rd.roff.toNat ≤ 8 → 1 ≤ n → n ≤ 128 →
    s.rd.answers = as ++ rest → AnswerBytes as bs → bs.length = (n - (8 - s.rd.roff.toNat) + 7) / 8 →
    ∃ t : State, exec (.rdbits n) s = .next t ∧
      (∃ d : Value, t.rd.phase = .responding ⟨.ok, d, 0#Config.iocodeW⟩ ∧
        d.toNat = bitsValue ((s.rd.unread ++ streamBits bs).take n) ∧ d.toNat < 2 ^ n) ∧
      t.rd.fetches = s.rd.fetches + bs.length ∧ t.rd.answers = rest ∧ t.rd.taken = s.rd.taken ++ bs ∧
      (n ≤ 8 - s.rd.roff.toNat →
        t.rd.roff.toNat = s.rd.roff.toNat + n ∧ t.rd.cur = s.rd.cur <<< n) ∧
      (8 - s.rd.roff.toNat < n → (n - (8 - s.rd.roff.toNat)) % 8 = 0 → t.rd.roff = 8#4 ∧ t.rd.cur = 0#8) ∧
      (∀ b, 8 - s.rd.roff.toNat < n → (n - (8 - s.rd.roff.toNat)) % 8 ≠ 0 → bs.getLast? = some b →
        t.rd.roff.toNat = (n - (8 - s.rd.roff.toNat)) % 8 ∧
        t.rd.cur = b <<< ((n - (8 - s.rd.roff.toNat)) % 8)) ∧
      t.rd.rflt = false ∧ t.rd.responses = s.rd.responses ∧ t.wr = s.wr ∧ t.inbox = s.inbox

/-- R116, conflict C1: `n = 0` is legal, makes no request, changes neither CUR nor ROFF, and returns 0, whatever the
source would answer. -/
def Obligations.RdbitsOfZeroBits : Prop :=
  ∀ s : State, s.rd.rflt = false →
    ∃ t : State, exec (.rdbits 0) s = .next t ∧ t.rd.phase = .responding ⟨.ok, 0#128, 0#Config.iocodeW⟩ ∧
      t.rd.cur = s.rd.cur ∧ t.rd.roff = s.rd.roff ∧ t.rd.rflt = s.rd.rflt ∧ t.rd.answers = s.rd.answers ∧
      t.rd.fetches = s.rd.fetches ∧ t.rd.taken = s.rd.taken ∧ t.rd.responses = s.rd.responses ∧ t.wr = s.wr ∧
      t.inbox = s.inbox

/-- R119: RDBYTE at any position of an unfaulted BR, its fetch answered with the byte `b`: the byte returned is the
last `8 - ROFF` bits of the current stream byte `c` followed by the first ROFF bits of `b`; with ROFF = 8 it is `b`. -/
def Obligations.RdbyteJoinsTwoStreamBytes : Prop :=
  ∀ (s : State) (a : SrcAnswer) (rest : List SrcAnswer) (c b : Byte),
    s.rd.rflt = false → 1 ≤ s.rd.roff.toNat → s.rd.roff.toNat ≤ 8 → s.rd.cur = c <<< s.rd.roff.toNat →
    s.rd.answers = a :: rest → srcReply a = .byte b →
    ∃ t : State, exec .rdbyte s = .next t ∧
      t.rd.phase = .responding
        ⟨.ok, ((c <<< s.rd.roff.toNat) ||| (b >>> (8 - s.rd.roff.toNat))).setWidth 128, 0#Config.iocodeW⟩ ∧
      t.rd.roff = s.rd.roff ∧ t.rd.cur = b <<< s.rd.roff.toNat ∧
      t.rd.fetches = s.rd.fetches + 1 ∧ t.rd.answers = rest ∧ t.rd.taken = s.rd.taken ++ [b] ∧
      t.rd.rflt = false ∧ t.rd.responses = s.rd.responses ∧ t.wr = s.wr ∧ t.inbox = s.inbox

/-- R120: RDBYTE and RDBITS 8 are the same in every effect, in every state and with every source: the states differ
at most in the name of the command that waits. -/
def Obligations.RdbyteIsRdbitsOfEight : Prop :=
  ∀ s t u : State, exec .rdbyte s = .next t → exec (.rdbits 8) s = .next u →
    { t with rd := { t.rd with phase := .idle } } = { u with rd := { u.rd with phase := .idle } } ∧
    t.rd.phase.response = u.rd.phase.response

/-- R122: an RDBITS or RDBYTE that meets a failing answer after `bs`, too few bytes for it, ends with that answer's own
error: the earlier bytes are consumed, the failing request is made, ROFF is 8, no data is delivered, the latch is
set.
That ROFF still is 8 under the set latch afterwards is log 3. -/
def Obligations.RdbitsFailsInMidCommand : Prop :=
  ∀ (i : Instr) (s : State) (n : Nat) (as rest : List SrcAnswer) (a : SrcAnswer) (bs : List Byte) (e : Err),
    (i = .rdbits n ∨ i = .rdbyte ∧ n = 8) → s.rd.rflt = false → s.rd.roff.toNat ≤ 8 → n ≤ 128 →
    s.rd.answers = as ++ a :: rest → AnswerBytes as bs → 8 - s.rd.roff.toNat + 8 * bs.length < n →
    (e = .unexpectedEndOfInput ∧ srcReply a = .eos ∨ ∃ c, e = .underlyingIOError c ∧ srcReply a = .ioerr c) →
    ∃ t : State, exec i s = .next t ∧ t.rd.phase = .responding ⟨e.status, 0#128, e.iocode⟩ ∧
      t.rd.rflt = true ∧ t.rd.fetches = s.rd.fetches + bs.length + 1 ∧ t.rd.answers = rest ∧
      t.rd.taken = s.rd.taken ++ bs ∧ t.rd.roff = 8#4 ∧ t.rd.responses = s.rd.responses ∧ t.wr = s.wr ∧
      t.inbox = s.inbox

/-- What a BR command leaves unchanged (R3, R41): BW and its sink, the inbox and the responses; the source only
moves forward, one answer a request; RDBIT leaves ACC and BCNT. -/
def Obligations.ReaderCommandFrame : Prop :=
  ∀ (i : Instr) (s t : State), i.port = .br → exec i s = .next t →
    t.wr = s.wr ∧ t.inbox = s.inbox ∧ t.rd.commands = s.rd.commands ∧ t.rd.responses = s.rd.responses ∧
    (∃ k, t.rd.answers = s.rd.answers.drop k ∧ t.rd.fetches = s.rd.fetches + k ∧ k ≤ s.rd.answers.length) ∧
    s.rd.taken <+: t.rd.taken ∧
    (i = .rdbit → t.rd.acc = s.rd.acc ∧ t.rd.bcnt = s.rd.bcnt)

/-- Two reads in a row are one read (95_test_vectors.md T4): where RDBITS (a + b) answers OK with `z` and no waiting,
RDBITS a answers OK with some `x`, and once that response is taken RDBITS b answers OK with some `y`, where
`z = x * 2^b + y`, and the lookahead, the latch and the source stand as after the one read. -/
def Obligations.RdbitsSplitsAnywhere : Prop :=
  ∀ (s u : State) (a b : Nat) (z : Value), exec (.rdbits (a + b)) s = .next u →
    u.rd.phase = .responding ⟨.ok, z, 0#Config.iocodeW⟩ →
    ∃ (t v : State) (x y : Value), exec (.rdbits a) s = .next t ∧ t.rd.phase = .responding ⟨.ok, x, 0#Config.iocodeW⟩ ∧
      exec (.rdbits b) { t with rd := brResponseTaken t.rd } = .next v ∧ v.rd.phase = .responding ⟨.ok, y, 0#Config.iocodeW⟩ ∧
      z.toNat = x.toNat * 2 ^ b + y.toNat ∧
      v.rd.cur = u.rd.cur ∧ v.rd.roff = u.rd.roff ∧ v.rd.rflt = u.rd.rflt ∧ v.rd.answers = u.rd.answers ∧
      v.rd.fetches = u.rd.fetches ∧ v.rd.taken = u.rd.taken

/-- When a source answers does not matter (log 4, and log 21 for the engine taking it at once): a command that waits, whose request the source takes in the next step
and answers in the step after it, stands where it would stand had the answer been given without delay. -/
def Obligations.LateSourceAnswerIsAsGoodAsPrompt : Prop :=
  ∀ (i : Instr) (s t u : State) (a : SrcAnswer) (rest : List Event), i.port = .br → exec i s = .next t →
    t.rd.phase.isRequesting = true →
    exec i { s with rd := { s.rd with answers := s.rd.answers ++ [a] } } = .next u →
    srcAnswered a (srcAccepted t.rd) = u.rd ∧
    ∃ v w : State, step { t with inbox := .srcAccept :: .srcAnswer a :: rest } = .next v ∧
      v.rd.phase.isAwaiting = true ∧ v.wr = t.wr ∧ step v = .next w ∧ w.rd = u.rd ∧ w.wr = t.wr ∧ w.inbox = rest

/-! ### BW -/

/-- R141: SHIFTIN by WOFF and the sink's answer, the first three rows of R143's cycle: no request below WOFF = 7, and
at WOFF = 7 the completed byte is written at once (with no prompt answer it waits with that request: log 4). -/
def Obligations.ByteAccumulationCycle : Prop :=
  ∀ (w : WriteSide) (v : Bool),
    (w.woff.toNat ≤ 6 →
      shiftIn v w = .ok () { w with pend := w.pend.extractLsb' 0 7 ++ BitVec.ofBool v, woff := w.woff + 1#4 }) ∧
    (∀ a rest, w.woff = 7#4 → w.answers = a :: rest →
      (writeReply a = .accepted → ∃ w', shiftIn v w = .ok () w' ∧ w'.pend = 0#8 ∧ w'.woff = 0#4 ∧
        w'.requests = w.requests ++ [.write (w.pend.extractLsb' 0 7 ++ BitVec.ofBool v)] ∧
        w'.accepted = w.accepted ++ [w.pend.extractLsb' 0 7 ++ BitVec.ofBool v] ∧ w'.answers = rest) ∧
      (writeReply a = .zero → ∃ w', shiftIn v w = .raise .zeroBytesWritten w' ∧
        w'.requests = w.requests ++ [.write (w.pend.extractLsb' 0 7 ++ BitVec.ofBool v)] ∧
        w'.accepted = w.accepted ∧ w'.answers = rest) ∧
      (∀ c, writeReply a = .ioerr c → ∃ w', shiftIn v w = .raise (.underlyingIOError c) w' ∧
        w'.requests = w.requests ++ [.write (w.pend.extractLsb' 0 7 ++ BitVec.ofBool v)] ∧
        w'.accepted = w.accepted ∧ w'.answers = rest)) ∧
    (w.woff = 7#4 → w.answers = [] →
      shiftIn v w = .blocked { w with pend := w.pend.extractLsb' 0 7 ++ BitVec.ofBool v, woff := 8#4 })

/-- R145: WRBIT shifts in W_VAL[0]; with WOFF at most 6 it cannot fail and makes no request; with WOFF = 7 it emits
the completed byte in the same command, and ends with the error of the answer if the sink does not accept it. -/
def Obligations.WrbitShiftsInOneBit : Prop :=
  ∀ (s : State) (val : Value), s.wr.wflt = false →
    (s.wr.woff.toNat ≤ 6 →
      exec (.wrbit val) s = .next { s with wr := { s.wr with
        pend := s.wr.pend.extractLsb' 0 7 ++ val.extractLsb' 0 1
        woff := s.wr.woff + 1#4
        wval := val
        phase := .responding ⟨.ok, 0#Config.iocodeW⟩ } }) ∧
    (∀ a rest, s.wr.woff = 7#4 → s.wr.answers = a :: rest →
      (writeReply a = .accepted →
        exec (.wrbit val) s = .next { s with wr := { s.wr with
          pend := 0#8
          woff := 0#4
          wval := val
          answers := rest
          requests := s.wr.requests ++ [.write (s.wr.pend.extractLsb' 0 7 ++ val.extractLsb' 0 1)]
          accepted := s.wr.accepted ++ [s.wr.pend.extractLsb' 0 7 ++ val.extractLsb' 0 1]
          phase := .responding ⟨.ok, 0#Config.iocodeW⟩ } }) ∧
      (∀ e : Err, e = .zeroBytesWritten ∧ writeReply a = .zero ∨ (∃ c, e = .underlyingIOError c ∧ writeReply a = .ioerr c) →
        ∃ t : State, exec (.wrbit val) s = .next t ∧ t.wr.phase = .responding ⟨e.status, e.iocode⟩ ∧
          t.wr.wflt = true ∧ t.wr.answers = rest ∧ t.wr.accepted = s.wr.accepted ∧
          t.wr.requests = s.wr.requests ++ [.write (s.wr.pend.extractLsb' 0 7 ++ val.extractLsb' 0 1)]))

/-- R148: the closed form of WRBITS for `1 <= n <= 128` with every write accepted, from a state with `PEND < 2^WOFF`.
`X` is the pending number with the operand behind it; the `j`-th byte sent is the `j`-th byte of `X` from the top. -/
def Obligations.WrbitsClosedForm : Prop :=
  ∀ (s : State) (v : Value) (n : Nat) (as rest : List SnkAnswer) (bs : List Byte),
    s.wr.wflt = false → s.wr.pendingInv → 1 ≤ n → n ≤ 128 →
    s.wr.answers = as ++ rest → AllAccepted as → as.length = (s.wr.woff.toNat + n) / 8 →
    bs = (List.range ((s.wr.woff.toNat + n) / 8)).map (fun j =>
      BitVec.ofNat 8 ((s.wr.pend.toNat * 2 ^ n + v.toNat % 2 ^ n) >>>
        ((s.wr.woff.toNat + n) % 8 + 8 * ((s.wr.woff.toNat + n) / 8 - 1 - j)))) →
    ∃ t : State, exec (.wrbits v n) s = .next t ∧ t.wr.phase = .responding ⟨.ok, 0#Config.iocodeW⟩ ∧
      t.wr.requests = s.wr.requests ++ bs.map SnkRequest.write ∧ t.wr.accepted = s.wr.accepted ++ bs ∧
      t.wr.answers = rest ∧ t.wr.woff.toNat = (s.wr.woff.toNat + n) % 8 ∧
      t.wr.pend.toNat = (s.wr.pend.toNat * 2 ^ n + v.toNat % 2 ^ n) % 2 ^ ((s.wr.woff.toNat + n) % 8) ∧
      t.wr.wflt = false ∧ t.wr.wval = v ∧ t.wr.drained = s.wr.drained ∧ t.wr.responses = s.wr.responses ∧
      t.rd = s.rd ∧ t.inbox = s.inbox

/-- R147, conflict C1: `n = 0` is legal, writes nothing, makes no request and answers OK. -/
def Obligations.WrbitsOfZeroBits : Prop :=
  ∀ (s : State) (v : Value), s.wr.wflt = false →
    ∃ t : State, exec (.wrbits v 0) s = .next t ∧ t.wr.phase = .responding ⟨.ok, 0#Config.iocodeW⟩ ∧
      t.wr.pend = s.wr.pend ∧ t.wr.woff = s.wr.woff ∧ t.wr.wflt = s.wr.wflt ∧ t.wr.answers = s.wr.answers ∧
      t.wr.requests = s.wr.requests ∧ t.wr.accepted = s.wr.accepted ∧ t.wr.drained = s.wr.drained ∧
      t.wr.responses = s.wr.responses ∧ t.rd = s.rd ∧ t.inbox = s.inbox

/-- R150: WRBYTE emits one byte, the WOFF pending bits followed by the top bits of `v`, keeps the low WOFF bits of
`v` pending and leaves WOFF as it was; byte-aligned it emits `v` itself. -/
def Obligations.WrbyteEmitsOneByte : Prop :=
  ∀ (s : State) (val : Value) (a : SnkAnswer) (rest : List SnkAnswer) (b : Byte),
    s.wr.wflt = false → s.wr.pendingInv → s.wr.answers = a :: rest → writeReply a = .accepted →
    b = (s.wr.pend <<< (8 - s.wr.woff.toNat)) ||| (val.extractLsb' 0 8 >>> s.wr.woff.toNat) →
    ∃ t : State, exec (.wrbyte val) s = .next t ∧ t.wr.phase = .responding ⟨.ok, 0#Config.iocodeW⟩ ∧
      t.wr.requests = s.wr.requests ++ [.write b] ∧ t.wr.accepted = s.wr.accepted ++ [b] ∧ t.wr.answers = rest ∧
      t.wr.woff = s.wr.woff ∧ t.wr.pend.toNat = val.toNat % 2 ^ s.wr.woff.toNat ∧
      (s.wr.woff = 0#4 → b = val.extractLsb' 0 8) ∧
      t.wr.wflt = false ∧ t.wr.drained = s.wr.drained ∧ t.wr.responses = s.wr.responses ∧ t.rd = s.rd ∧
      t.inbox = s.inbox

/-- R151: WRBYTE v and WRBITS v, 8 are the same in every effect, in every state and with every sink. -/
def Obligations.WrbyteIsWrbitsOfEight : Prop :=
  ∀ (s t u : State) (v : Value), exec (.wrbyte v) s = .next t → exec (.wrbits v 8) s = .next u →
    { t with wr := { t.wr with phase := .idle } } = { u with wr := { u.wr with phase := .idle } } ∧
    t.wr.phase.response = u.wr.phase.response

/-- R86: the bits of W_VAL a command does not use have no effect on any state but the operand latch WVAL, which
holds W_VAL as it came (log 9), nor on any request or the response. -/
def Obligations.UnusedOperandBitsAreIgnored : Prop :=
  ∀ (s t u : State) (v v' : Value) (n : Nat),
    (v.toNat % 2 = v'.toNat % 2 → exec (.wrbit v) s = .next t → exec (.wrbit v') s = .next u →
      { t with wr := { t.wr with wval := 0#128 } } = { u with wr := { u.wr with wval := 0#128 } }) ∧
    (v.toNat % 2 ^ n = v'.toNat % 2 ^ n → exec (.wrbits v n) s = .next t → exec (.wrbits v' n) s = .next u →
      { t with wr := { t.wr with wval := 0#128 } } = { u with wr := { u.wr with wval := 0#128 } }) ∧
    (v.toNat % 256 = v'.toNat % 256 → exec (.wrbyte v) s = .next t → exec (.wrbyte v') s = .next u →
      { t with wr := { t.wr with wval := 0#128 } } = { u with wr := { u.wr with wval := 0#128 } })

/-- R153: PAD on a byte-aligned BW changes nothing; with `1 <= WOFF <= 7` it emits the pending bits at the top of a
byte with zeros below, and leaves WOFF = 0 and PEND = 0, or ends with the error of the answer, latched. -/
def Obligations.PadCompletesThePartialByte : Prop :=
  ∀ s : State, s.wr.wflt = false →
    (s.wr.woff = 0#4 → exec .pad s = .next { s with wr := { s.wr with phase := .responding ⟨.ok, 0#Config.iocodeW⟩ } }) ∧
    (∀ a rest, s.wr.pendingInv → s.wr.woff ≠ 0#4 → s.wr.answers = a :: rest → writeReply a = .accepted →
      ∃ t : State, exec .pad s = .next t ∧ t.wr.phase = .responding ⟨.ok, 0#Config.iocodeW⟩ ∧
        t.wr.requests = s.wr.requests ++ [.write (s.wr.pend <<< (8 - s.wr.woff.toNat))] ∧
        t.wr.accepted = s.wr.accepted ++ [s.wr.pend <<< (8 - s.wr.woff.toNat)] ∧ t.wr.answers = rest ∧
        t.wr.woff = 0#4 ∧ t.wr.pend = 0#8 ∧ t.wr.wflt = false ∧ t.wr.wval = s.wr.wval ∧
        t.wr.drained = s.wr.drained ∧ t.wr.responses = s.wr.responses ∧ t.rd = s.rd ∧ t.inbox = s.inbox) ∧
    (∀ a rest (e : Err), s.wr.pendingInv → s.wr.woff ≠ 0#4 → s.wr.answers = a :: rest →
      (e = .zeroBytesWritten ∧ writeReply a = .zero ∨ ∃ c, e = .underlyingIOError c ∧ writeReply a = .ioerr c) →
      ∃ t : State, exec .pad s = .next t ∧ t.wr.phase = .responding ⟨e.status, e.iocode⟩ ∧ t.wr.wflt = true ∧
        t.wr.requests = s.wr.requests ++ [.write (s.wr.pend <<< (8 - s.wr.woff.toNat))] ∧
        t.wr.accepted = s.wr.accepted ∧ t.wr.answers = rest ∧ t.wr.drained = s.wr.drained)

/-- R156: FPAD emits PEND as it stands, whatever WOFF is, in exactly one write, and the byte 0x00 on a byte-aligned BW;
accepted, it leaves WOFF = 0 and PEND = 0; not accepted, it ends with the error of the answer, latched. -/
def Obligations.FpadEmitsThePendingByte : Prop :=
  ∀ (s : State) (a : SnkAnswer) (rest : List SnkAnswer), s.wr.wflt = false → s.wr.answers = a :: rest →
    (writeReply a = .accepted →
      exec .fpad s = .next { s with wr := { s.wr with
        pend := 0#8
        woff := 0#4
        answers := rest
        requests := s.wr.requests ++ [.write s.wr.pend]
        accepted := s.wr.accepted ++ [s.wr.pend]
        phase := .responding ⟨.ok, 0#Config.iocodeW⟩ } }) ∧
    (∀ e : Err, e = .zeroBytesWritten ∧ writeReply a = .zero ∨ (∃ c, e = .underlyingIOError c ∧ writeReply a = .ioerr c) →
      ∃ t : State, exec .fpad s = .next t ∧ t.wr.phase = .responding ⟨e.status, e.iocode⟩ ∧ t.wr.wflt = true ∧
        t.wr.answers = rest ∧ t.wr.requests = s.wr.requests ++ [.write s.wr.pend] ∧
        t.wr.accepted = s.wr.accepted) ∧
    (s.wr.pendingInv → s.wr.woff = 0#4 →
      ∃ t : State, exec .fpad s = .next t ∧ t.wr.requests = s.wr.requests ++ [.write 0x00#8])

/-- R159, R68: FLUSH. Byte-aligned it sends the one FLUSH request. With bits pending it writes the padded byte first,
and sends the FLUSH request only if that write is accepted. After OK nothing is pending and the flush covers every
accepted byte. A failing answer to either request is the command's error, latched. The clauses that give the whole state
for WOFF = 0 say of PEND and WOFF under a set latch what log 3 says, and of WIDX what log 10 says. -/
def Obligations.FlushPadsThenFlushesTheSink : Prop :=
  ∀ s : State, s.wr.wflt = false → s.wr.pendingInv →
    (∀ a rest, s.wr.woff = 0#4 → s.wr.answers = a :: rest → flushReply a = .done →
      exec .flush s = .next { s with wr := { s.wr with
        answers := rest
        requests := s.wr.requests ++ [.flush]
        drained := s.wr.accepted.length
        phase := .responding ⟨.ok, 0#Config.iocodeW⟩ } }) ∧
    (∀ a a' rest, s.wr.woff ≠ 0#4 → s.wr.answers = a :: a' :: rest → writeReply a = .accepted →
      flushReply a' = .done →
      ∃ t : State, exec .flush s = .next t ∧ t.wr.phase = .responding ⟨.ok, 0#Config.iocodeW⟩ ∧
        t.wr.requests = s.wr.requests ++ [.write (s.wr.pend <<< (8 - s.wr.woff.toNat)), .flush] ∧
        t.wr.accepted = s.wr.accepted ++ [s.wr.pend <<< (8 - s.wr.woff.toNat)] ∧
        t.wr.drained = t.wr.accepted.length ∧ t.wr.answers = rest ∧ t.wr.woff = 0#4 ∧ t.wr.pend = 0#8 ∧
        t.wr.wflt = false ∧ t.wr.wval = s.wr.wval ∧ t.wr.responses = s.wr.responses ∧ t.rd = s.rd ∧
        t.inbox = s.inbox) ∧
    (∀ a rest (e : Err), s.wr.woff ≠ 0#4 → s.wr.answers = a :: rest →
      (e = .zeroBytesWritten ∧ writeReply a = .zero ∨ ∃ c, e = .underlyingIOError c ∧ writeReply a = .ioerr c) →
      ∃ t : State, exec .flush s = .next t ∧ t.wr.phase = .responding ⟨e.status, e.iocode⟩ ∧ t.wr.wflt = true ∧
        t.wr.answers = rest ∧
        t.wr.requests = s.wr.requests ++ [.write (s.wr.pend <<< (8 - s.wr.woff.toNat))] ∧
        t.wr.accepted = s.wr.accepted ∧ t.wr.drained = s.wr.drained) ∧
    (∀ a rest c, s.wr.woff = 0#4 → s.wr.answers = a :: rest → flushReply a = .ioerr c →
      exec .flush s = .next { s with wr := { s.wr with
        answers := rest
        requests := s.wr.requests ++ [.flush]
        wflt := true
        phase := .responding ⟨.underlyingIOError, c⟩ } }) ∧
    (∀ a a' rest c, s.wr.woff ≠ 0#4 → s.wr.answers = a :: a' :: rest → writeReply a = .accepted →
      flushReply a' = .ioerr c →
      ∃ t : State, exec .flush s = .next t ∧ t.wr.phase = .responding ⟨.underlyingIOError, c⟩ ∧ t.wr.wflt = true ∧
        t.wr.requests = s.wr.requests ++ [.write (s.wr.pend <<< (8 - s.wr.woff.toNat)), .flush] ∧
        t.wr.accepted = s.wr.accepted ++ [s.wr.pend <<< (8 - s.wr.woff.toNat)] ∧ t.wr.answers = rest ∧
        t.wr.drained = s.wr.drained)

/-- R160: a second FLUSH with nothing written in between adds no byte, whatever the sink answers to it, and no request
but a FLUSH request, which it has made or, where the sink gives no answer without delay, waits with (log 4). -/
def Obligations.FlushTwiceAddsNoByte : Prop :=
  ∀ s t u : State, s.wr.wflt = false → s.wr.pendingInv → exec .flush s = .next t →
    t.wr.phase = .responding ⟨.ok, 0#Config.iocodeW⟩ → exec .flush { t with wr := bwResponseTaken t.wr } = .next u →
    u.wr.accepted = t.wr.accepted ∧
      (u.wr.requests = t.wr.requests ∧ u.wr.phase = .requesting .flushSink ∨
        u.wr.requests = t.wr.requests ++ [.flush])

/-- R161: a WRBITS or WRBYTE that meets a failing answer after `as`, fewer accepted writes than it needs: the accepted bytes
stay, the failing byte has been offered, no later byte is, the response carries the answer's own error and the latch
is set. -/
def Obligations.WrbitsFailsInMidCommand : Prop :=
  ∀ (i : Instr) (s : State) (v : Value) (n : Nat) (as rest : List SnkAnswer) (a : SnkAnswer) (bs : List Byte) (e : Err),
    (i = .wrbits v n ∨ i = .wrbyte v ∧ n = 8) → s.wr.wflt = false → s.wr.pendingInv → n ≤ 128 →
    s.wr.answers = as ++ a :: rest → AllAccepted as → as.length < (s.wr.woff.toNat + n) / 8 →
    (e = .zeroBytesWritten ∧ writeReply a = .zero ∨ ∃ c, e = .underlyingIOError c ∧ writeReply a = .ioerr c) →
    bs = (List.range (as.length + 1)).map (fun j =>
      BitVec.ofNat 8 ((s.wr.pend.toNat * 2 ^ n + v.toNat % 2 ^ n) >>>
        ((s.wr.woff.toNat + n) % 8 + 8 * ((s.wr.woff.toNat + n) / 8 - 1 - j)))) →
    ∃ t : State, exec i s = .next t ∧ t.wr.phase = .responding ⟨e.status, e.iocode⟩ ∧ t.wr.wflt = true ∧
      t.wr.requests = s.wr.requests ++ bs.map SnkRequest.write ∧
      t.wr.accepted = s.wr.accepted ++ bs.take as.length ∧ t.wr.answers = rest ∧ t.wr.drained = s.wr.drained ∧
      t.wr.responses = s.wr.responses ∧ t.rd = s.rd ∧ t.inbox = s.inbox

/-- What a BW command leaves unchanged (R3, R41): BR and its source, the inbox and the responses; the sink's bytes
and requests are only added to, one answer a request; only WRBIT, WRBITS and WRBYTE write WVAL; WRBIT and FPAD leave
WIDX; only FLUSH moves what a flush covers. -/
def Obligations.WriterCommandFrame : Prop :=
  ∀ (i : Instr) (s t : State), i.port = .bw → exec i s = .next t →
    t.rd = s.rd ∧ t.inbox = s.inbox ∧ t.wr.commands = s.wr.commands ∧ t.wr.responses = s.wr.responses ∧
    s.wr.accepted <+: t.wr.accepted ∧
    (∃ new, t.wr.requests = s.wr.requests ++ new ∧ s.wr.answers = s.wr.answers.take new.length ++ t.wr.answers ∧
      new.length ≤ s.wr.answers.length) ∧
    (i = .pad ∨ i = .fpad ∨ i = .flush → t.wr.wval = s.wr.wval) ∧
    (i = .fpad ∨ (∃ v, i = .wrbit v) → t.wr.widx = s.wr.widx) ∧
    (i ≠ .flush → t.wr.drained = s.wr.drained ∧ SnkRequest.flush ∉ t.wr.requests.drop s.wr.requests.length)

/-- Two writes in a row are one write (95_test_vectors.md T4): where WRBITS v, a + b answers OK without waiting,
WRBITS (v >> b), a then WRBITS v, b leave the same pending bits, the same requests and the same sink. -/
def Obligations.WrbitsSplitsAnywhere : Prop :=
  ∀ (s u : State) (v : Value) (a b : Nat), exec (.wrbits v (a + b)) s = .next u →
    u.wr.phase = .responding ⟨.ok, 0#Config.iocodeW⟩ →
    ∃ t w : State, exec (.wrbits (v >>> b) a) s = .next t ∧ t.wr.phase = .responding ⟨.ok, 0#Config.iocodeW⟩ ∧
      exec (.wrbits v b) { t with wr := bwResponseTaken t.wr } = .next w ∧ w.wr.phase = .responding ⟨.ok, 0#Config.iocodeW⟩ ∧
      w.wr.pend = u.wr.pend ∧ w.wr.woff = u.wr.woff ∧ w.wr.wflt = u.wr.wflt ∧ w.wr.answers = u.wr.answers ∧
      w.wr.requests = u.wr.requests ∧ w.wr.accepted = u.wr.accepted ∧ w.wr.drained = u.wr.drained

/-- When a sink answers does not matter (log 4, and log 21 for the engine taking it at once): a command that waits, whose request the sink takes in the next step and
answers in the step after it, stands where it would stand had the answer been given without delay. -/
def Obligations.LateSinkAnswerIsAsGoodAsPrompt : Prop :=
  ∀ (i : Instr) (s t u : State) (a : SnkAnswer) (rest : List Event), i.port = .bw → exec i s = .next t →
    t.wr.phase.isRequesting = true →
    exec i { s with wr := { s.wr with answers := s.wr.answers ++ [a] } } = .next u →
    snkAnswered a (snkAccepted t.wr) = u.wr ∧
    ∃ v w : State, step { t with inbox := .snkAccept :: .snkAnswer a :: rest } = .next v ∧
      v.wr.phase.isAwaiting = true ∧ v.rd = t.rd ∧ step v = .next w ∧ w.wr = u.wr ∧ w.rd = t.rd ∧ w.inbox = rest

/-! ### Both engines -/

/-- R63: one command makes at most 16 fetches and at most 16 byte writes. -/
def Obligations.AtMostSixteenAccessesPerCommand : Prop :=
  ∀ (i : Instr) (s t : State), exec i s = .next t →
    (s.rd.lookaheadInv → t.rd.fetches ≤ s.rd.fetches + 16) ∧
    (s.wr.pendingInv →
      (writtenBytes t.wr.requests).length ≤ (writtenBytes s.wr.requests).length + 16)

/-- R3: what one engine does depends on nothing of the other: a BR command gives the same BR whatever BW, its sink
and the inbox are, and the other way about. -/
def Obligations.EnginesDoNotInterfere : Prop :=
  ∀ (i : Instr) (s s' t t' : State), exec i s = .next t → exec i s' = .next t' →
    (i.port = .br → s.rd = s'.rd → t.rd = t'.rd ∧ t.wr = s.wr ∧ t'.wr = s'.wr) ∧
    (i.port = .bw → s.wr = s'.wr → t.wr = t'.wr ∧ t.rd = s.rd ∧ t'.rd = s'.rd)

/-- The invariant holds right after reset. -/
def Obligations.InvariantAfterReset : Prop := State.reset.Inv

/-- Every step of every state that meets the invariant of BR (R23, R24; where a command waits; the form of R90; R188; the session) leads to
one that meets it. -/
def Obligations.ReaderInvariantIsKept : Prop :=
  ∀ s t : State, s.rd.Inv → step s = .next t → t.rd.Inv

/-- Every step of every state that meets the invariant of BW (R33, R35; where a command waits; R66 of the accepted
bytes; the form of R91; R188; the session) leads to one that meets it. What it says of WIDX in a waiting command is
the model's own choice (log 10). -/
def Obligations.WriterInvariantIsKept : Prop :=
  ∀ s t : State, s.wr.Inv → step s = .next t → t.wr.Inv

/-! ### What the host builds on them -/

/-- R121: RDBYTES n on a byte-aligned BR over a source that hands out at least `n` bytes, `bs` the first of them,
returns exactly those, and leaves BR byte-aligned. For a BR that is not idle at the start see log 20. -/
def Obligations.RdbytesReturnsTheSourceBytes : Prop :=
  ∀ (s : State) (as rest : List SrcAnswer) (bs : List Byte),
    s.rd.rflt = false → s.rd.roff = 8#4 → s.rd.answers = as ++ rest → AnswerBytes as bs →
    ∃ t : State, rdbytes bs.length s = .succeed bs t ∧ t.rd.rflt = false ∧ t.rd.roff = 8#4 ∧ t.rd.answers = rest ∧
      t.rd.fetches = s.rd.fetches + bs.length ∧ t.rd.taken = s.rd.taken ++ bs ∧ t.wr = s.wr

/-- R152: WRBYTES over `bs` on a byte-aligned BW with a sink that accepts every write appends exactly `bs` to what
the sink has accepted, and leaves BW byte-aligned. For a BW that is not idle at the start see log 20. -/
def Obligations.WrbytesAppendsTheBytes : Prop :=
  ∀ (s : State) (as rest : List SnkAnswer) (bs : List Byte),
    s.wr.wflt = false → s.wr.woff = 0#4 → s.wr.pend = 0#8 → s.wr.answers = as ++ rest → AllAccepted as →
    as.length = bs.length →
    ∃ t : State, wrbytes bs s = .succeed () t ∧ t.wr.accepted = s.wr.accepted ++ bs ∧
      t.wr.requests = s.wr.requests ++ bs.map SnkRequest.write ∧ t.wr.woff = 0#4 ∧ t.wr.pend = 0#8 ∧
      t.wr.wflt = false ∧ t.wr.answers = rest ∧ t.rd = s.rd

/-- The round trip of bits (95_test_vectors.md T3): fields of any widths up to 128, written with WRBITS by a BW just
reset over a sink that accepts everything, then FLUSH, then read with RDBITS of the same widths by a BR just reset over
the accepted bytes, come back, each the low bits of what was written; and the write session has ended well (R215). -/
def Obligations.FieldsComeBackFromTheSink : Prop :=
  ∀ (fs : List (Value × Nat)) (k : Nat) (s : State),
    (∀ f ∈ fs, f.2 ≤ 128) → (fs.map Prod.snd).sum / 8 + 2 ≤ k →
    s = { State.reset with wr := { WriteSide.reset with answers := List.replicate k goodAnswer } } →
    ∃ t u : State, writeFields fs s = .succeed () t ∧ issueBw .flush t = .succeed () u ∧ u.wr.endedWell ∧
      ∃ out v, readFields (fs.map Prod.snd)
          { u with rd := { ReadSide.reset with answers := u.wr.accepted.map byteAnswer } } = .succeed out v ∧
        out.map BitVec.toNat = fs.map (fun f => f.1.toNat % 2 ^ f.2) ∧ v.rd.endedWell

/-! ### Late answers and sessions -/

/-- R54, R56, R57, R69: the step whose first event is an answer for an engine with a request outstanding takes it: the
command goes on with it, or ends with its error, latched. `brResume` and `bwResume` are what LateSourceAnswerIsAsGoodAsPrompt
and LateSinkAnswerIsAsGoodAsPrompt hold against answers given without delay. What the registers hold under a set latch is
log 3, and that the answer is taken in this step is log 21. -/
def Obligations.PresentedAnswerIsTaken : Prop :=
  (∀ (s : State) (rest : List Event) (j : BrJob) (a : SrcAnswer), s.inbox = .srcAnswer a :: rest →
    s.rd.phase = .awaiting j →
    step s = .next { s with inbox := rest, rd := brResume j a s.rd } ∧
    (srcReply a = .eos → step s = .next { s with
      inbox := rest
      rd := { s.rd with
        rflt := true
        phase := .responding ⟨.unexpectedEndOfInput, 0#128, 0#Config.iocodeW⟩ } }) ∧
    (∀ c, srcReply a = .ioerr c → step s = .next { s with
      inbox := rest
      rd := { s.rd with rflt := true, phase := .responding ⟨.underlyingIOError, 0#128, c⟩ } })) ∧
  (∀ (s : State) (rest : List Event) (j : BwJob) (a : SnkAnswer), s.inbox = .snkAnswer a :: rest →
    s.wr.phase = .awaiting j →
    step s = .next { s with inbox := rest, wr := bwResume j a s.wr } ∧
    (j ≠ .flushSink → writeReply a = .zero → step s = .next { s with
      inbox := rest
      wr := { s.wr with wflt := true, phase := .responding ⟨.zeroBytesWritten, 0#Config.iocodeW⟩ } }) ∧
    (j ≠ .flushSink → ∀ c, writeReply a = .ioerr c → step s = .next { s with
      inbox := rest
      wr := { s.wr with wflt := true, phase := .responding ⟨.underlyingIOError, c⟩ } }) ∧
    (j = .flushSink → ∀ c, flushReply a = .ioerr c → step s = .next { s with
      inbox := rest
      wr := { s.wr with wflt := true, phase := .responding ⟨.underlyingIOError, c⟩ } }))

/-- R215, R216, R217: in every state that meets the invariant, a BW session whose last command was a FLUSH answered OK
has nothing pending, no fault and no accepted byte that a flush does not cover; a BR session whose every command
answered OK has no fault; so a run that is over with its latch set has not ended well. -/
def Obligations.EndedWellSessionsLeaveNothing : Prop :=
  ∀ s : State, s.Inv →
    (s.wr.endedWell → s.wr.woff = 0#4 ∧ s.wr.pend = 0#8 ∧ s.wr.wflt = false ∧
      s.wr.drained = s.wr.accepted.length) ∧
    (s.rd.endedWell → s.rd.rflt = false) ∧
    (s.brRunFailed → ¬ s.rd.endedWell) ∧ (s.bwRunFailed → ¬ s.wr.endedWell)
end

