-- ==== Sys2Proof/Laws/Decode.lean ====
section
/-! SUPPORT. The fields of a command word, and which engine's commands a decoder yields. -/

namespace Sys2Proof

theorem opcField_append (a b : BitVec 8) : opcField (a ++ b) = a := by
  have h : (a ++ b).extractLsb' 8 8 = a := by
    apply BitVec.eq_of_toNat_eq
    rw [BitVec.extractLsb'_toNat, BitVec.toNat_append, ← Nat.shiftLeft_add_eq_or_of_lt b.isLt]
    have := a.isLt
    have := b.isLt
    simp [Nat.shiftRight_eq_div_pow, Nat.shiftLeft_eq]
    omega
  exact h

theorem cntField_append (a b : BitVec 8) : cntField (a ++ b) = b := by
  have h : (a ++ b).extractLsb' 0 8 = b := by
    apply BitVec.eq_of_toNat_eq
    rw [BitVec.extractLsb'_toNat, BitVec.toNat_append, ← Nat.shiftLeft_add_eq_or_of_lt b.isLt]
    have := a.isLt
    have := b.isLt
    simp [Nat.shiftLeft_eq]
    omega
  exact h

/-- A command word is its two fields (R84). -/
theorem opcField_append_cntField (w : CmdWord) : opcField w ++ cntField w = w := by
  have h : BitVec.extractLsb' 8 8 w ++ BitVec.extractLsb' 0 8 w = w := by
    apply BitVec.eq_of_toNat_eq
    rw [BitVec.toNat_append, ← Nat.shiftLeft_add_eq_or_of_lt (BitVec.extractLsb' 0 8 w).isLt]
    have := w.isLt
    simp [Nat.shiftLeft_eq, Nat.shiftRight_eq_div_pow]
    omega
  exact h

@[simp] theorem opcField_cmdWord (o : Opcode) (n : Nat) : opcField (cmdWord o n) = o.number :=
  opcField_append _ _

@[simp] theorem cntField_cmdWord (o : Opcode) (n : Nat) : cntField (cmdWord o n) = BitVec.ofNat 8 n :=
  cntField_append _ _

@[simp] theorem opcodeOf_number (o : Opcode) : opcodeOf o.number = some o := by cases o <;> rfl

theorem formatF0_command {c : BitVec 8} {i j : Instr} (h : formatF0 c j = .command i) : c = 0#8 ∧ i = j := by
  unfold formatF0 at h
  split at h
  · cases h
    exact ⟨‹_›, rfl⟩
  · cases h

/-- BR's decoder yields BR commands only (R88). -/
theorem decodeBR_port {w : CmdWord} {i : Instr} (h : decodeBR w = .command i) : i.port = .br := by
  unfold decodeBR at h
  split at h <;> first | (cases h; done) | (cases h; rfl) | (obtain ⟨-, rfl⟩ := formatF0_command h; rfl)

/-- BW's decoder yields BW commands only (R88). -/
theorem decodeBW_port {w : CmdWord} {val : Value} {i : Instr} (h : decodeBW w val = .command i) : i.port = .bw := by
  unfold decodeBW at h
  split at h <;> first | (cases h; done) | (cases h; rfl) | (obtain ⟨-, rfl⟩ := formatF0_command h; rfl)

end Sys2Proof
end

