-- ==== Sys2Proof/Laws/State.lean ====
section
/-! SUPPORT. One lemma per field per update: responses, error entry, reset, a word taken. -/

namespace Sys2Proof.Machine

@[simp] theorem brRespond_cur (st : Status) (d : Value) (c : IoCode) (r : ReadSide) : (brRespond st d c r).cur = r.cur := rfl
@[simp] theorem brRespond_roff (st : Status) (d : Value) (c : IoCode) (r : ReadSide) : (brRespond st d c r).roff = r.roff := rfl
@[simp] theorem brRespond_rflt (st : Status) (d : Value) (c : IoCode) (r : ReadSide) : (brRespond st d c r).rflt = r.rflt := rfl
@[simp] theorem brRespond_acc (st : Status) (d : Value) (c : IoCode) (r : ReadSide) : (brRespond st d c r).acc = r.acc := rfl
@[simp] theorem brRespond_bcnt (st : Status) (d : Value) (c : IoCode) (r : ReadSide) : (brRespond st d c r).bcnt = r.bcnt := rfl
@[simp] theorem brRespond_phase (st : Status) (d : Value) (c : IoCode) (r : ReadSide) : (brRespond st d c r).phase = .responding ⟨st, d, c⟩ := rfl
@[simp] theorem brRespond_answers (st : Status) (d : Value) (c : IoCode) (r : ReadSide) : (brRespond st d c r).answers = r.answers := rfl
@[simp] theorem brRespond_fetches (st : Status) (d : Value) (c : IoCode) (r : ReadSide) : (brRespond st d c r).fetches = r.fetches := rfl
@[simp] theorem brRespond_taken (st : Status) (d : Value) (c : IoCode) (r : ReadSide) : (brRespond st d c r).taken = r.taken := rfl
@[simp] theorem brRespond_commands (st : Status) (d : Value) (c : IoCode) (r : ReadSide) : (brRespond st d c r).commands = r.commands := rfl
@[simp] theorem brRespond_responses (st : Status) (d : Value) (c : IoCode) (r : ReadSide) : (brRespond st d c r).responses = r.responses := rfl

@[simp] theorem brOk_cur (d : Value) (r : ReadSide) : (brOk d r).cur = r.cur := rfl
@[simp] theorem brOk_roff (d : Value) (r : ReadSide) : (brOk d r).roff = r.roff := rfl
@[simp] theorem brOk_rflt (d : Value) (r : ReadSide) : (brOk d r).rflt = r.rflt := rfl
@[simp] theorem brOk_acc (d : Value) (r : ReadSide) : (brOk d r).acc = r.acc := rfl
@[simp] theorem brOk_bcnt (d : Value) (r : ReadSide) : (brOk d r).bcnt = r.bcnt := rfl
@[simp] theorem brOk_phase (d : Value) (r : ReadSide) : (brOk d r).phase = .responding ⟨.ok, d, 0#Config.iocodeW⟩ := rfl
@[simp] theorem brOk_answers (d : Value) (r : ReadSide) : (brOk d r).answers = r.answers := rfl
@[simp] theorem brOk_fetches (d : Value) (r : ReadSide) : (brOk d r).fetches = r.fetches := rfl
@[simp] theorem brOk_taken (d : Value) (r : ReadSide) : (brOk d r).taken = r.taken := rfl
@[simp] theorem brOk_commands (d : Value) (r : ReadSide) : (brOk d r).commands = r.commands := rfl
@[simp] theorem brOk_responses (d : Value) (r : ReadSide) : (brOk d r).responses = r.responses := rfl

@[simp] theorem brRaise_cur (e : Err) (r : ReadSide) : (brRaise e r).cur = r.cur := rfl
@[simp] theorem brRaise_roff (e : Err) (r : ReadSide) : (brRaise e r).roff = r.roff := rfl
@[simp] theorem brRaise_rflt (e : Err) (r : ReadSide) : (brRaise e r).rflt = (r.rflt || e.latches) := rfl
@[simp] theorem brRaise_acc (e : Err) (r : ReadSide) : (brRaise e r).acc = r.acc := rfl
@[simp] theorem brRaise_bcnt (e : Err) (r : ReadSide) : (brRaise e r).bcnt = r.bcnt := rfl
@[simp] theorem brRaise_phase (e : Err) (r : ReadSide) : (brRaise e r).phase = .responding ⟨e.status, 0#128, e.iocode⟩ := rfl
@[simp] theorem brRaise_answers (e : Err) (r : ReadSide) : (brRaise e r).answers = r.answers := rfl
@[simp] theorem brRaise_fetches (e : Err) (r : ReadSide) : (brRaise e r).fetches = r.fetches := rfl
@[simp] theorem brRaise_taken (e : Err) (r : ReadSide) : (brRaise e r).taken = r.taken := rfl
@[simp] theorem brRaise_commands (e : Err) (r : ReadSide) : (brRaise e r).commands = r.commands := rfl
@[simp] theorem brRaise_responses (e : Err) (r : ReadSide) : (brRaise e r).responses = r.responses := rfl

@[simp] theorem brRefuse_cur (st : Status) (r : ReadSide) : (brRefuse st r).cur = r.cur := rfl
@[simp] theorem brRefuse_roff (st : Status) (r : ReadSide) : (brRefuse st r).roff = r.roff := rfl
@[simp] theorem brRefuse_rflt (st : Status) (r : ReadSide) : (brRefuse st r).rflt = r.rflt := rfl
@[simp] theorem brRefuse_acc (st : Status) (r : ReadSide) : (brRefuse st r).acc = r.acc := rfl
@[simp] theorem brRefuse_bcnt (st : Status) (r : ReadSide) : (brRefuse st r).bcnt = r.bcnt := rfl
@[simp] theorem brRefuse_phase (st : Status) (r : ReadSide) : (brRefuse st r).phase = .responding ⟨st, 0#128, 0#Config.iocodeW⟩ := rfl
@[simp] theorem brRefuse_answers (st : Status) (r : ReadSide) : (brRefuse st r).answers = r.answers := rfl
@[simp] theorem brRefuse_fetches (st : Status) (r : ReadSide) : (brRefuse st r).fetches = r.fetches := rfl
@[simp] theorem brRefuse_taken (st : Status) (r : ReadSide) : (brRefuse st r).taken = r.taken := rfl
@[simp] theorem brRefuse_commands (st : Status) (r : ReadSide) : (brRefuse st r).commands = r.commands := rfl
@[simp] theorem brRefuse_responses (st : Status) (r : ReadSide) : (brRefuse st r).responses = r.responses := rfl

@[simp] theorem brReset_cur (r : ReadSide) : (brReset r).cur = 0#8 := rfl
@[simp] theorem brReset_roff (r : ReadSide) : (brReset r).roff = 8#4 := rfl
@[simp] theorem brReset_rflt (r : ReadSide) : (brReset r).rflt = false := rfl
@[simp] theorem brReset_acc (r : ReadSide) : (brReset r).acc = 0#128 := rfl
@[simp] theorem brReset_bcnt (r : ReadSide) : (brReset r).bcnt = 0#8 := rfl
@[simp] theorem brReset_phase (r : ReadSide) : (brReset r).phase = .idle := rfl
@[simp] theorem brReset_answers (r : ReadSide) : (brReset r).answers = r.answers := rfl
@[simp] theorem brReset_fetches (r : ReadSide) : (brReset r).fetches = r.fetches := rfl
@[simp] theorem brReset_taken (r : ReadSide) : (brReset r).taken = r.taken := rfl
@[simp] theorem brReset_commands (r : ReadSide) : (brReset r).commands = [] := rfl
@[simp] theorem brReset_responses (r : ReadSide) : (brReset r).responses = [] := rfl

@[simp] theorem brTook_cur (w : CmdWord) (r : ReadSide) : (brTook w r).cur = r.cur := rfl
@[simp] theorem brTook_roff (w : CmdWord) (r : ReadSide) : (brTook w r).roff = r.roff := rfl
@[simp] theorem brTook_rflt (w : CmdWord) (r : ReadSide) : (brTook w r).rflt = r.rflt := rfl
@[simp] theorem brTook_acc (w : CmdWord) (r : ReadSide) : (brTook w r).acc = r.acc := rfl
@[simp] theorem brTook_bcnt (w : CmdWord) (r : ReadSide) : (brTook w r).bcnt = r.bcnt := rfl
@[simp] theorem brTook_phase (w : CmdWord) (r : ReadSide) : (brTook w r).phase = r.phase := rfl
@[simp] theorem brTook_answers (w : CmdWord) (r : ReadSide) : (brTook w r).answers = r.answers := rfl
@[simp] theorem brTook_fetches (w : CmdWord) (r : ReadSide) : (brTook w r).fetches = r.fetches := rfl
@[simp] theorem brTook_taken (w : CmdWord) (r : ReadSide) : (brTook w r).taken = r.taken := rfl
@[simp] theorem brTook_commands (w : CmdWord) (r : ReadSide) : (brTook w r).commands = r.commands ++ [w] := rfl
@[simp] theorem brTook_responses (w : CmdWord) (r : ReadSide) : (brTook w r).responses = r.responses := rfl

@[simp] theorem bwRespond_pend (st : Status) (c : IoCode) (w : WriteSide) : (bwRespond st c w).pend = w.pend := rfl
@[simp] theorem bwRespond_woff (st : Status) (c : IoCode) (w : WriteSide) : (bwRespond st c w).woff = w.woff := rfl
@[simp] theorem bwRespond_wflt (st : Status) (c : IoCode) (w : WriteSide) : (bwRespond st c w).wflt = w.wflt := rfl
@[simp] theorem bwRespond_wval (st : Status) (c : IoCode) (w : WriteSide) : (bwRespond st c w).wval = w.wval := rfl
@[simp] theorem bwRespond_widx (st : Status) (c : IoCode) (w : WriteSide) : (bwRespond st c w).widx = w.widx := rfl
@[simp] theorem bwRespond_phase (st : Status) (c : IoCode) (w : WriteSide) : (bwRespond st c w).phase = .responding ⟨st, c⟩ := rfl
@[simp] theorem bwRespond_answers (st : Status) (c : IoCode) (w : WriteSide) : (bwRespond st c w).answers = w.answers := rfl
@[simp] theorem bwRespond_requests (st : Status) (c : IoCode) (w : WriteSide) : (bwRespond st c w).requests = w.requests := rfl
@[simp] theorem bwRespond_accepted (st : Status) (c : IoCode) (w : WriteSide) : (bwRespond st c w).accepted = w.accepted := rfl
@[simp] theorem bwRespond_drained (st : Status) (c : IoCode) (w : WriteSide) : (bwRespond st c w).drained = w.drained := rfl
@[simp] theorem bwRespond_commands (st : Status) (c : IoCode) (w : WriteSide) : (bwRespond st c w).commands = w.commands := rfl
@[simp] theorem bwRespond_responses (st : Status) (c : IoCode) (w : WriteSide) : (bwRespond st c w).responses = w.responses := rfl

@[simp] theorem bwOk_pend (w : WriteSide) : (bwOk w).pend = w.pend := rfl
@[simp] theorem bwOk_woff (w : WriteSide) : (bwOk w).woff = w.woff := rfl
@[simp] theorem bwOk_wflt (w : WriteSide) : (bwOk w).wflt = w.wflt := rfl
@[simp] theorem bwOk_wval (w : WriteSide) : (bwOk w).wval = w.wval := rfl
@[simp] theorem bwOk_widx (w : WriteSide) : (bwOk w).widx = w.widx := rfl
@[simp] theorem bwOk_phase (w : WriteSide) : (bwOk w).phase = .responding ⟨.ok, 0#Config.iocodeW⟩ := rfl
@[simp] theorem bwOk_answers (w : WriteSide) : (bwOk w).answers = w.answers := rfl
@[simp] theorem bwOk_requests (w : WriteSide) : (bwOk w).requests = w.requests := rfl
@[simp] theorem bwOk_accepted (w : WriteSide) : (bwOk w).accepted = w.accepted := rfl
@[simp] theorem bwOk_drained (w : WriteSide) : (bwOk w).drained = w.drained := rfl
@[simp] theorem bwOk_commands (w : WriteSide) : (bwOk w).commands = w.commands := rfl
@[simp] theorem bwOk_responses (w : WriteSide) : (bwOk w).responses = w.responses := rfl

@[simp] theorem bwRaise_pend (e : Err) (w : WriteSide) : (bwRaise e w).pend = w.pend := rfl
@[simp] theorem bwRaise_woff (e : Err) (w : WriteSide) : (bwRaise e w).woff = w.woff := rfl
@[simp] theorem bwRaise_wflt (e : Err) (w : WriteSide) : (bwRaise e w).wflt = (w.wflt || e.latches) := rfl
@[simp] theorem bwRaise_wval (e : Err) (w : WriteSide) : (bwRaise e w).wval = w.wval := rfl
@[simp] theorem bwRaise_widx (e : Err) (w : WriteSide) : (bwRaise e w).widx = w.widx := rfl
@[simp] theorem bwRaise_phase (e : Err) (w : WriteSide) : (bwRaise e w).phase = .responding ⟨e.status, e.iocode⟩ := rfl
@[simp] theorem bwRaise_answers (e : Err) (w : WriteSide) : (bwRaise e w).answers = w.answers := rfl
@[simp] theorem bwRaise_requests (e : Err) (w : WriteSide) : (bwRaise e w).requests = w.requests := rfl
@[simp] theorem bwRaise_accepted (e : Err) (w : WriteSide) : (bwRaise e w).accepted = w.accepted := rfl
@[simp] theorem bwRaise_drained (e : Err) (w : WriteSide) : (bwRaise e w).drained = w.drained := rfl
@[simp] theorem bwRaise_commands (e : Err) (w : WriteSide) : (bwRaise e w).commands = w.commands := rfl
@[simp] theorem bwRaise_responses (e : Err) (w : WriteSide) : (bwRaise e w).responses = w.responses := rfl

@[simp] theorem bwRefuse_pend (st : Status) (w : WriteSide) : (bwRefuse st w).pend = w.pend := rfl
@[simp] theorem bwRefuse_woff (st : Status) (w : WriteSide) : (bwRefuse st w).woff = w.woff := rfl
@[simp] theorem bwRefuse_wflt (st : Status) (w : WriteSide) : (bwRefuse st w).wflt = w.wflt := rfl
@[simp] theorem bwRefuse_wval (st : Status) (w : WriteSide) : (bwRefuse st w).wval = w.wval := rfl
@[simp] theorem bwRefuse_widx (st : Status) (w : WriteSide) : (bwRefuse st w).widx = w.widx := rfl
@[simp] theorem bwRefuse_phase (st : Status) (w : WriteSide) : (bwRefuse st w).phase = .responding ⟨st, 0#Config.iocodeW⟩ := rfl
@[simp] theorem bwRefuse_answers (st : Status) (w : WriteSide) : (bwRefuse st w).answers = w.answers := rfl
@[simp] theorem bwRefuse_requests (st : Status) (w : WriteSide) : (bwRefuse st w).requests = w.requests := rfl
@[simp] theorem bwRefuse_accepted (st : Status) (w : WriteSide) : (bwRefuse st w).accepted = w.accepted := rfl
@[simp] theorem bwRefuse_drained (st : Status) (w : WriteSide) : (bwRefuse st w).drained = w.drained := rfl
@[simp] theorem bwRefuse_commands (st : Status) (w : WriteSide) : (bwRefuse st w).commands = w.commands := rfl
@[simp] theorem bwRefuse_responses (st : Status) (w : WriteSide) : (bwRefuse st w).responses = w.responses := rfl

@[simp] theorem bwReset_pend (w : WriteSide) : (bwReset w).pend = 0#8 := rfl
@[simp] theorem bwReset_woff (w : WriteSide) : (bwReset w).woff = 0#4 := rfl
@[simp] theorem bwReset_wflt (w : WriteSide) : (bwReset w).wflt = false := rfl
@[simp] theorem bwReset_wval (w : WriteSide) : (bwReset w).wval = 0#128 := rfl
@[simp] theorem bwReset_widx (w : WriteSide) : (bwReset w).widx = 0#8 := rfl
@[simp] theorem bwReset_phase (w : WriteSide) : (bwReset w).phase = .idle := rfl
@[simp] theorem bwReset_answers (w : WriteSide) : (bwReset w).answers = w.answers := rfl
@[simp] theorem bwReset_requests (w : WriteSide) : (bwReset w).requests = w.requests := rfl
@[simp] theorem bwReset_accepted (w : WriteSide) : (bwReset w).accepted = w.accepted := rfl
@[simp] theorem bwReset_drained (w : WriteSide) : (bwReset w).drained = w.drained := rfl
@[simp] theorem bwReset_commands (w : WriteSide) : (bwReset w).commands = [] := rfl
@[simp] theorem bwReset_responses (w : WriteSide) : (bwReset w).responses = [] := rfl

@[simp] theorem bwTook_pend (c : CmdWord) (w : WriteSide) : (bwTook c w).pend = w.pend := rfl
@[simp] theorem bwTook_woff (c : CmdWord) (w : WriteSide) : (bwTook c w).woff = w.woff := rfl
@[simp] theorem bwTook_wflt (c : CmdWord) (w : WriteSide) : (bwTook c w).wflt = w.wflt := rfl
@[simp] theorem bwTook_wval (c : CmdWord) (w : WriteSide) : (bwTook c w).wval = w.wval := rfl
@[simp] theorem bwTook_widx (c : CmdWord) (w : WriteSide) : (bwTook c w).widx = w.widx := rfl
@[simp] theorem bwTook_phase (c : CmdWord) (w : WriteSide) : (bwTook c w).phase = w.phase := rfl
@[simp] theorem bwTook_answers (c : CmdWord) (w : WriteSide) : (bwTook c w).answers = w.answers := rfl
@[simp] theorem bwTook_requests (c : CmdWord) (w : WriteSide) : (bwTook c w).requests = w.requests := rfl
@[simp] theorem bwTook_accepted (c : CmdWord) (w : WriteSide) : (bwTook c w).accepted = w.accepted := rfl
@[simp] theorem bwTook_drained (c : CmdWord) (w : WriteSide) : (bwTook c w).drained = w.drained := rfl
@[simp] theorem bwTook_commands (c : CmdWord) (w : WriteSide) : (bwTook c w).commands = w.commands ++ [c] := rfl
@[simp] theorem bwTook_responses (c : CmdWord) (w : WriteSide) : (bwTook c w).responses = w.responses := rfl

end Sys2Proof.Machine
end

