-- ==== Sys2Proof/Laws/Ops.lean ====
section
/-! SUPPORT. What the shared operations can do: one lemma per micro-operation with all its outcomes, and how they
compose. -/

namespace Sys2Proof.Machine

@[simp] theorem Micro.bind_ok {α β σ : Type} (a : α) (s : σ) (f : α → σ → Micro β σ) :
    (Micro.ok a s).bind f = f a s := rfl

@[simp] theorem Micro.bind_blocked {α β σ : Type} (s : σ) (f : α → σ → Micro β σ) :
    (Micro.blocked s : Micro α σ).bind f = .blocked s := rfl

@[simp] theorem Micro.bind_raise {α β σ : Type} (e : Err) (s : σ) (f : α → σ → Micro β σ) :
    (Micro.raise e s : Micro α σ).bind f = .raise e s := rfl

theorem Micro.bind_assoc {α β γ σ : Type} (m : Micro α σ) (f : α → σ → Micro β σ) (g : β → σ → Micro γ σ) :
    (m.bind f).bind g = m.bind fun a s => (f a s).bind g := by
  cases m <;> rfl

/-- A micro-operation that raises has met one of the stream errors, which latch (R188). -/
def Micro.raisesOnly {α σ : Type} (p : Err → Prop) (m : Micro α σ) : Prop :=
  match m with
  | .ok _ _ => True
  | .blocked _ => True
  | .raise e _ => p e

theorem Micro.raisesOnly_bind {α β σ : Type} {p : Err → Prop} {m : Micro α σ} {f : α → σ → Micro β σ}
    (hm : m.raisesOnly p) (hf : ∀ a s, (f a s).raisesOnly p) : (m.bind f).raisesOnly p := by
  cases m with
  | ok a s => exact hf a s
  | blocked s => trivial
  | raise e s => exact hm

@[simp] theorem brFrame_unfaulted {r : ReadSide} (h : r.rflt = false) (f : ReadSide → ReadSide) : brFrame r f = f r := by
  simp [brFrame, h]

@[simp] theorem brFrame_faulted {r : ReadSide} (h : r.rflt = true) (f : ReadSide → ReadSide) :
    brFrame r f = brRefuse .engineFaulted r := by
  simp [brFrame, h]

@[simp] theorem bwFrame_unfaulted {w : WriteSide} (h : w.wflt = false) (f : WriteSide → WriteSide) :
    bwFrame w f = f w := by
  simp [bwFrame, h]

@[simp] theorem bwFrame_faulted {w : WriteSide} (h : w.wflt = true) (f : WriteSide → WriteSide) :
    bwFrame w f = bwRefuse .engineFaulted w := by
  simp [bwFrame, h]

/-- The shift of the registers is a multiplication by two with the bit below (R9). -/
theorem toNat_shiftInBit (w : Nat) (x : BitVec w) (b : Bool) (hw : 0 < w) :
    (shiftInBit w x b).toNat = (2 * x.toNat + b.toNat) % 2 ^ w := by
  obtain ⟨k, rfl⟩ : ∃ k, w = k + 1 := ⟨w - 1, by omega⟩
  have hb : b.toNat < 2 ^ (k + 1) := by
    have := Bool.toNat_lt b
    have := Nat.one_le_two_pow (n := k)
    rw [Nat.pow_succ]
    omega
  have h1 : (x <<< 1).toNat = 2 * (x.toNat % 2 ^ k) := by
    rw [BitVec.toNat_shiftLeft, Nat.shiftLeft_eq, Nat.pow_one, Nat.mul_comm x.toNat, Nat.pow_succ']
    exact Nat.mul_mod_mul_left ..
  have h2 : (shiftInBit (k + 1) x b).toNat = 2 * (x.toNat % 2 ^ k) + b.toNat := by
    rw [shiftInBit, BitVec.toNat_or, h1]
    have : ((BitVec.ofBool b).setWidth (k + 1)).toNat = b.toNat := by
      rw [BitVec.toNat_setWidth, BitVec.toNat_ofBool, Nat.mod_eq_of_lt hb]
    rw [this]
    have := Nat.two_pow_add_eq_or_of_lt (i := 1) (b := b.toNat) (Bool.toNat_lt b) (x.toNat % 2 ^ k)
    simpa using this.symm
  rw [h2]
  have hd := Nat.mod_lt x.toNat (Nat.two_pow_pos k)
  have := Bool.toNat_lt b
  rw [Nat.pow_succ', Nat.mod_mul]
  have e1 : (2 * x.toNat + b.toNat) % 2 = b.toNat := by omega
  have e2 : (2 * x.toNat + b.toNat) / 2 = x.toNat := by omega
  rw [e1, e2]
  omega

/-- SHIFTIN's new PEND is `{PEND[6:0], v}` (R141). -/
theorem shiftInBit_eq_append (x : Byte) (b : Bool) : shiftInBit 8 x b = x.extractLsb' 0 7 ++ BitVec.ofBool b := by
  revert x b
  decide

/-! ### BR -/

theorem readBit_lookahead {r : ReadSide} (h : r.roff ≠ 8#4) : readBit r = extract r := by simp [readBit, h]

theorem readBit_blocked {r : ReadSide} (h : r.roff = 8#4) (ha : r.answers = []) : readBit r = .blocked r := by
  simp [readBit, h, refill, ha]

theorem readBit_refill {r : ReadSide} {a : SrcAnswer} {rest : List SrcAnswer} (h : r.roff = 8#4)
    (ha : r.answers = a :: rest) :
    readBit r = (refillAnswered a { r with fetches := r.fetches + 1, answers := rest }).bind fun _ r' => extract r' := by
  simp [readBit, h, refill, ha]

/-- Everything READBIT can do (R111 to R113). -/
theorem readBit_cases (r : ReadSide) :
    (r.roff ≠ 8#4 ∧ readBit r = .ok r.cur.msb { r with cur := shiftInBit 8 r.cur false, roff := r.roff + 1#4 }) ∨
    (r.roff = 8#4 ∧ r.answers = [] ∧ readBit r = .blocked r) ∨
    (∃ a rest b, r.roff = 8#4 ∧ r.answers = a :: rest ∧ srcReply a = .byte b ∧
      readBit r = .ok b.msb { r with
        cur := shiftInBit 8 b false
        roff := 1#4
        fetches := r.fetches + 1
        answers := rest
        taken := r.taken ++ [b] }) ∨
    (∃ a rest e, r.roff = 8#4 ∧ r.answers = a :: rest ∧
      (e = .unexpectedEndOfInput ∧ srcReply a = .eos ∨ ∃ c, e = .underlyingIOError c ∧ srcReply a = .ioerr c) ∧
      readBit r = .raise e { r with fetches := r.fetches + 1, answers := rest }) := by
  by_cases h : r.roff = 8#4
  · cases ha : r.answers with
    | nil => exact .inr (.inl ⟨h, rfl, readBit_blocked h ha⟩)
    | cons a rest =>
      refine .inr (.inr ?_)
      rw [readBit_refill h ha]
      cases hr : srcReply a with
      | byte b => exact .inl ⟨a, rest, b, h, rfl, hr, by simp [refillAnswered, hr, extract]⟩
      | eos => exact .inr ⟨a, rest, _, h, rfl, .inl ⟨rfl, hr⟩, by simp [refillAnswered, hr]⟩
      | ioerr c => exact .inr ⟨a, rest, _, h, rfl, .inr ⟨c, rfl, hr⟩, by simp [refillAnswered, hr]⟩
  · exact .inl ⟨h, by rw [readBit_lookahead h]; rfl⟩

theorem readLoop_succ (k : Nat) (r : ReadSide) :
    readLoop (k + 1) r = (readBit r).bind fun b r' =>
      readLoop k { r' with acc := shiftInBit 128 r'.acc b, bcnt := r'.bcnt - 1#8 } := rfl

/-- A loop is its first part and then the rest. -/
theorem readLoop_add (a b : Nat) (r : ReadSide) :
    readLoop (a + b) r = (readLoop a r).bind fun _ r' => readLoop b r' := by
  induction a generalizing r with
  | zero => simp [readLoop]
  | succ a ih =>
    rw [show a + 1 + b = (a + b) + 1 by omega, readLoop_succ, readLoop_succ, Micro.bind_assoc]
    congr 1
    funext x r'
    exact ih _

/-! ### BW -/

/-- Everything EMIT can do (R142). -/
theorem emit_cases (w : WriteSide) :
    (w.answers = [] ∧ emit w = .blocked w) ∨
    (∃ a rest, w.answers = a :: rest ∧ writeReply a = .accepted ∧
      emit w = .ok () { w with
        pend := 0#8
        woff := 0#4
        requests := w.requests ++ [.write w.pend]
        answers := rest
        accepted := w.accepted ++ [w.pend] }) ∨
    (∃ a rest e, w.answers = a :: rest ∧
      (e = .zeroBytesWritten ∧ writeReply a = .zero ∨ ∃ c, e = .underlyingIOError c ∧ writeReply a = .ioerr c) ∧
      emit w = .raise e { w with requests := w.requests ++ [.write w.pend], answers := rest }) := by
  cases ha : w.answers with
  | nil => exact .inl ⟨rfl, by simp [emit, ha]⟩
  | cons a rest =>
    refine .inr ?_
    cases hr : writeReply a with
    | accepted => exact .inl ⟨a, rest, rfl, hr, by simp [emit, ha, emitAnswered, hr]⟩
    | zero => exact .inr ⟨a, rest, _, rfl, .inl ⟨rfl, hr⟩, by simp [emit, ha, emitAnswered, hr]⟩
    | ioerr c => exact .inr ⟨a, rest, _, rfl, .inr ⟨c, rfl, hr⟩, by simp [emit, ha, emitAnswered, hr]⟩

theorem shiftIn_partial {w : WriteSide} (v : Bool) (h : w.woff + 1#4 ≠ 8#4) :
    shiftIn v w = .ok () { w with pend := shiftInBit 8 w.pend v, woff := w.woff + 1#4 } := by
  simp [shiftIn, h]

theorem shiftIn_full {w : WriteSide} (v : Bool) (h : w.woff + 1#4 = 8#4) :
    shiftIn v w = emit { w with pend := shiftInBit 8 w.pend v, woff := 8#4 } := by
  simp [shiftIn, h]

theorem writeLoop_succ (k : Nat) (w : WriteSide) :
    writeLoop (k + 1) w =
      (shiftIn (valueBit w.wval k) { w with widx := countRegister k }).bind fun _ w' => writeLoop k w' := rfl

theorem padLoop_succ (k : Nat) (w : WriteSide) :
    padLoop (k + 1) w = (shiftIn false { w with widx := countRegister k }).bind fun _ w' => padLoop k w' := rfl

theorem padToByte_aligned {w : WriteSide} (h : w.woff = 0#4) : padToByte w = .ok () w := by simp [padToByte, h]

theorem padToByte_partial {w : WriteSide} (h : w.woff ≠ 0#4) : padToByte w = padLoop (padCount w.woff) w := by
  simp [padToByte, h]

theorem toNat_countRegister {k : Nat} (h : k < 256) : (countRegister k).toNat = k := by
  simp [countRegister]
  omega

theorem tooWide_iff (n : Nat) : tooWide n = true ↔ 128 < n := by simp [tooWide]

end Sys2Proof.Machine
end

