-- ==== Sys2Proof/Laws/PerInstr.lean ====
section
/-! SUPPORT. Laws of every command, one lemma per constructor. OwnPort: a command's word is legal on its own engine's
port alone. "BR does not know BW's opcodes and BW does not know BR's" (spec/30_encoding.md rule R88). -/

namespace Sys2Proof.Laws.OwnPort

/-- What the word of `i` decodes to on the port of the other engine, with anything on W_VAL. -/
def Statement (i : Instr) : Prop :=
  ∀ (p : Port) (val : Value), p ≠ i.port → decodeOn p (encode i).word val = .illegal .otherEngine

theorem rdbit : Statement .rdbit := by
  rintro (_ | _) val h
  · exact absurd rfl h
  · simp [decodeOn, decodeBW, encode]

theorem rdbits (n : Nat) : Statement (.rdbits n) := by
  rintro (_ | _) val h
  · exact absurd rfl h
  · simp [decodeOn, decodeBW, encode]

theorem rdbyte : Statement .rdbyte := by
  rintro (_ | _) val h
  · exact absurd rfl h
  · simp [decodeOn, decodeBW, encode]

theorem wrbit (v : Value) : Statement (.wrbit v) := by
  rintro (_ | _) val h
  · simp [decodeOn, decodeBR, encode]
  · exact absurd rfl h

theorem wrbits (v : Value) (n : Nat) : Statement (.wrbits v n) := by
  rintro (_ | _) val h
  · simp [decodeOn, decodeBR, encode]
  · exact absurd rfl h

theorem wrbyte (v : Value) : Statement (.wrbyte v) := by
  rintro (_ | _) val h
  · simp [decodeOn, decodeBR, encode]
  · exact absurd rfl h

theorem pad : Statement .pad := by
  rintro (_ | _) val h
  · simp [decodeOn, decodeBR, encode]
  · exact absurd rfl h

theorem fpad : Statement .fpad := by
  rintro (_ | _) val h
  · simp [decodeOn, decodeBR, encode]
  · exact absurd rfl h

theorem flush : Statement .flush := by
  rintro (_ | _) val h
  · simp [decodeOn, decodeBR, encode]
  · exact absurd rfl h

end Sys2Proof.Laws.OwnPort
end

