-- ==== Sys2Proof/Laws/Step.lean ====
section
/-! SUPPORT. What `exec` and `step` can do, said once: a command acts on its own engine; a step is one of seven moves
of BR or of BW. -/

namespace Sys2Proof.Machine

/-! ### exec -/

/-- What a command does to BR. -/
def readerEffect (i : Instr) (r : ReadSide) : ReadSide :=
  match i with
  | .rdbit => rdbitCommand r
  | .rdbits n => rdbitsCommand n r
  | .rdbyte => rdbyteCommand r
  | .wrbit _ => r
  | .wrbits _ _ => r
  | .wrbyte _ => r
  | .pad => r
  | .fpad => r
  | .flush => r

/-- What a command does to BW. -/
def writerEffect (i : Instr) (w : WriteSide) : WriteSide :=
  match i with
  | .rdbit => w
  | .rdbits _ => w
  | .rdbyte => w
  | .wrbit val => wrbitCommand val w
  | .wrbits val n => wrbitsCommand val n w
  | .wrbyte val => wrbyteCommand val w
  | .pad => padCommand w
  | .fpad => fpadCommand w
  | .flush => flushCommand w

theorem exec_eq (i : Instr) (s : State) :
    exec i s = .next { s with rd := readerEffect i s.rd, wr := writerEffect i s.wr } := by
  cases i <;> rfl

theorem readerEffect_of_bw {i : Instr} (h : i.port = .bw) (r : ReadSide) : readerEffect i r = r := by
  cases i <;> first | rfl | cases h

theorem writerEffect_of_br {i : Instr} (h : i.port = .br) (w : WriteSide) : writerEffect i w = w := by
  cases i <;> first | rfl | cases h

theorem exec_br {i : Instr} (h : i.port = .br) (s : State) :
    exec i s = .next { s with rd := readerEffect i s.rd } := by
  rw [exec_eq, writerEffect_of_br h]

theorem exec_bw {i : Instr} (h : i.port = .bw) (s : State) :
    exec i s = .next { s with wr := writerEffect i s.wr } := by
  rw [exec_eq, readerEffect_of_bw h]

/-! ### The inbox -/

theorem firstReady_some {s : State} {l : List Event} {e : Event} {rest : List Event}
    (h : firstReady s l = some (e, rest)) :
    e.ready s = true ∧ ∃ a b, l = a ++ e :: b ∧ rest = a ++ b ∧ ∀ x ∈ a, x.ready s = false := by
  induction l generalizing rest with
  | nil => simp [firstReady] at h
  | cons x xs ih =>
    rw [firstReady] at h
    split at h
    · simp at h
      obtain ⟨rfl, rfl⟩ := h
      exact ⟨‹_›, [], xs, by simp⟩
    · split at h
      · rename_i e' es' heq
        simp at h
        obtain ⟨rfl, rfl⟩ := h
        obtain ⟨h1, a, b, rfl, rfl, h2⟩ := ih heq
        exact ⟨h1, x :: a, b, by simp, by simp, List.forall_mem_cons.2 ⟨Bool.eq_false_iff.2 ‹_›, h2⟩⟩
      · simp at h

theorem firstReady_none {s : State} {l : List Event} :
    firstReady s l = none ↔ ∀ x ∈ l, x.ready s = false := by
  induction l with
  | nil => simp [firstReady]
  | cons x xs ih =>
    rw [firstReady]
    split
    · simp_all
    · split <;> simp_all

/-- A step whose first event can happen is that event. -/
theorem step_first {s : State} {e : Event} {rest : List Event} (hi : s.inbox = e :: rest) (h : e.ready s = true) :
    step s = e.apply { s with inbox := rest } := by
  simp [step, hi, firstReady, h]

theorem step_next {s t : State} (h : step s = .next t) :
    ∃ e a b, s.inbox = a ++ e :: b ∧ e.ready s = true ∧ e.apply { s with inbox := a ++ b } = .next t := by
  unfold step at h
  split at h
  · cases h
  · rename_i e rest heq
    obtain ⟨h1, a, b, h2, rfl, -⟩ := firstReady_some heq
    exact ⟨e, a, b, h2, h1, h⟩

/-- Where a step stops for want of the environment, and with which name. -/
theorem step_fault_iff {s : State} {f : Fault} :
    step s = .fault f ↔ (∀ e ∈ s.inbox, e.ready s = false) ∧ f = stopReason s := by
  rw [← firstReady_none]
  unfold step
  split
  · simp_all [eq_comm]
  · rename_i e rest h
    simp only [h, reduceCtorEq, false_and, iff_false]
    cases e <;> simp only [Event.apply, brTakeWord, brRunWord, bwTakeWord, bwRunWord, brResetEdge, bwResetEdge] <;>
      (try split) <;> simp [exec_eq]

/-! ### When a run is over -/

theorem brCommandAhead_eq_false {l : List Event} (h : ∀ w, Event.brCommand w ∉ l) : brCommandAhead l = false := by
  induction l with
  | nil => rfl
  | cons e es ih =>
    have ih := ih fun w hw => h w (List.mem_cons_of_mem _ hw)
    cases e <;> first | exact ih | rfl | exact absurd List.mem_cons_self (h _)

theorem bwCommandAhead_eq_false {l : List Event} (h : ∀ w val, Event.bwCommand w val ∉ l) : bwCommandAhead l = false := by
  induction l with
  | nil => rfl
  | cons e es ih =>
    have ih := ih fun w val hw => h w val (List.mem_cons_of_mem _ hw)
    cases e <;> first | exact ih | rfl | exact absurd List.mem_cons_self (h _ _)

theorem stopReason_runOver_iff {s : State} :
    stopReason s = .runOver ↔ brRunOver s = true ∧ bwRunOver s = true := by
  simp [stopReason]

theorem stopReason_awaiting_iff {s : State} :
    stopReason s = .awaitingEnvironment ↔ ¬ (brRunOver s = true ∧ bwRunOver s = true) := by
  simp [stopReason]

/-! ### The moves of a step -/

/-- What one step can do to BR. -/
inductive ReaderMove (s : State) : ReadSide → Prop
  | stay : ReaderMove s s.rd
  | command (w : CmdWord) (i : Instr) (h : decodeBR w = .command i) (hp : s.rd.phase = .idle) :
      ReaderMove s (readerEffect i (brTook w s.rd))
  | illegal (w : CmdWord) (h : (decodeBR w).command? = none) (hp : s.rd.phase = .idle) :
      ReaderMove s (brFrame (brTook w s.rd) fun r => brRefuse .illegalCommand r)
  | taken (q : BrResponse) (hp : s.rd.phase = .responding q) (h : Event.brTake ∈ s.inbox) :
      ReaderMove s { s.rd with phase := .idle, responses := s.rd.responses ++ [q] }
  | accepted (j : BrJob) (hp : s.rd.phase = .requesting j) (h : Event.srcAccept ∈ s.inbox) :
      ReaderMove s { s.rd with phase := .awaiting j, fetches := s.rd.fetches + 1 }
  | answered (j : BrJob) (a : SrcAnswer) (hp : s.rd.phase = .awaiting j) (h : Event.srcAnswer a ∈ s.inbox) :
      ReaderMove s (brResume j a s.rd)
  | reset (hp : s.rd.phase = .idle) (h : Event.brReset ∈ s.inbox) : ReaderMove s (brReset s.rd)

/-- What one step can do to BW. -/
inductive WriterMove (s : State) : WriteSide → Prop
  | stay : WriterMove s s.wr
  | command (c : CmdWord) (val : Value) (i : Instr) (h : decodeBW c val = .command i) (hp : s.wr.phase = .idle) :
      WriterMove s (writerEffect i (bwTook c s.wr))
  | illegal (c : CmdWord) (val : Value) (h : (decodeBW c val).command? = none) (hp : s.wr.phase = .idle) :
      WriterMove s (bwFrame (bwTook c s.wr) fun w => bwRefuse .illegalCommand w)
  | taken (q : BwResponse) (hp : s.wr.phase = .responding q) (h : Event.bwTake ∈ s.inbox) :
      WriterMove s { s.wr with phase := .idle, responses := s.wr.responses ++ [q] }
  | accepted (j : BwJob) (hp : s.wr.phase = .requesting j) (h : Event.snkAccept ∈ s.inbox) :
      WriterMove s { s.wr with phase := .awaiting j, requests := s.wr.requests ++ [bwRequest j s.wr] }
  | answered (j : BwJob) (a : SnkAnswer) (hp : s.wr.phase = .awaiting j) (h : Event.snkAnswer a ∈ s.inbox) :
      WriterMove s (bwResume j a s.wr)
  | reset (hp : s.wr.phase = .idle) (h : Event.bwReset ∈ s.inbox) : WriterMove s (bwReset s.wr)

theorem isIdle_iff {p : BrPhase} : p.isIdle = true ↔ p = .idle := by cases p <;> simp [BrPhase.isIdle]

theorem isResponding_iff {p : BrPhase} : p.isResponding = true ↔ ∃ q, p = .responding q := by
  cases p <;> simp [BrPhase.isResponding]

theorem isRequesting_iff {p : BrPhase} : p.isRequesting = true ↔ ∃ j, p = .requesting j := by
  cases p <;> simp [BrPhase.isRequesting]

theorem isAwaiting_iff {p : BrPhase} : p.isAwaiting = true ↔ ∃ j, p = .awaiting j := by
  cases p <;> simp [BrPhase.isAwaiting]

theorem isIdle_iff' {p : BwPhase} : p.isIdle = true ↔ p = .idle := by cases p <;> simp [BwPhase.isIdle]

theorem isResponding_iff' {p : BwPhase} : p.isResponding = true ↔ ∃ q, p = .responding q := by
  cases p <;> simp [BwPhase.isResponding]

theorem isRequesting_iff' {p : BwPhase} : p.isRequesting = true ↔ ∃ j, p = .requesting j := by
  cases p <;> simp [BwPhase.isRequesting]

theorem isAwaiting_iff' {p : BwPhase} : p.isAwaiting = true ↔ ∃ j, p = .awaiting j := by
  cases p <;> simp [BwPhase.isAwaiting]

/-- Everything a step can do: one ready event leaves the inbox, and each engine makes one of its moves. -/
theorem step_moves {s t : State} (h : step s = .next t) :
    ∃ e a b, s.inbox = a ++ e :: b ∧ e.ready s = true ∧ t.inbox = a ++ b ∧ ReaderMove s t.rd ∧ WriterMove s t.wr := by
  obtain ⟨e, a, b, h1, h2, h3⟩ := step_next h
  have hm : e ∈ s.inbox := by simp [h1]
  refine ⟨e, a, b, h1, h2, ?_⟩
  clear h h1
  cases e with
  | brCommand w =>
    have hp := isIdle_iff.1 h2
    simp only [Event.apply, brTakeWord, brRunWord] at h3
    split at h3
    · rw [exec_br (decodeBR_port ‹_›)] at h3
      cases h3
      exact ⟨rfl, .command w _ ‹_› hp, .stay⟩
    · cases h3
      exact ⟨rfl, .illegal w (by simp [Decoded.command?, *]) hp, .stay⟩
  | brTake =>
    obtain ⟨q, hp⟩ := isResponding_iff.1 h2
    simp only [Event.apply, brResponseTaken, hp] at h3
    cases h3
    exact ⟨rfl, .taken q hp hm, .stay⟩
  | srcAccept =>
    obtain ⟨j, hp⟩ := isRequesting_iff.1 h2
    simp only [Event.apply, srcAccepted, hp] at h3
    cases h3
    exact ⟨rfl, .accepted j hp hm, .stay⟩
  | srcAnswer x =>
    obtain ⟨j, hp⟩ := isAwaiting_iff.1 h2
    simp only [Event.apply, srcAnswered, hp] at h3
    cases h3
    exact ⟨rfl, .answered j x hp hm, .stay⟩
  | brReset =>
    simp only [Event.apply, brResetEdge] at h3
    split at h3
    · cases h3
      exact ⟨rfl, .reset (isIdle_iff.1 ‹_›) hm, .stay⟩
    · cases h3
  | bwCommand w val =>
    have hp := isIdle_iff'.1 h2
    simp only [Event.apply, bwTakeWord, bwRunWord] at h3
    split at h3
    · rw [exec_bw (decodeBW_port ‹_›)] at h3
      cases h3
      exact ⟨rfl, .stay, .command w val _ ‹_› hp⟩
    · cases h3
      exact ⟨rfl, .stay, .illegal w val (by simp [Decoded.command?, *]) hp⟩
  | bwTake =>
    obtain ⟨q, hp⟩ := isResponding_iff'.1 h2
    simp only [Event.apply, bwResponseTaken, hp] at h3
    cases h3
    exact ⟨rfl, .stay, .taken q hp hm⟩
  | snkAccept =>
    obtain ⟨j, hp⟩ := isRequesting_iff'.1 h2
    simp only [Event.apply, snkAccepted, hp] at h3
    cases h3
    exact ⟨rfl, .stay, .accepted j hp hm⟩
  | snkAnswer x =>
    obtain ⟨j, hp⟩ := isAwaiting_iff'.1 h2
    simp only [Event.apply, snkAnswered, hp] at h3
    cases h3
    exact ⟨rfl, .stay, .answered j x hp hm⟩
  | bwReset =>
    simp only [Event.apply, bwResetEdge] at h3
    split at h3
    · cases h3
      exact ⟨rfl, .stay, .reset (isIdle_iff'.1 ‹_›) hm⟩
    · cases h3

end Sys2Proof.Machine
end

