-- ==== Sys2Proof/Tests/Slice0.lean ====
section
/-! SUPPORT. Tests of the model and witnesses for the statements. Expected results are the spec's: the encodings of
spec/30_encoding.md rules R88, R94, the examples of the command rules and the vectors of spec/95_test_vectors.md. A
theorem named `test_meets_<Name>` shows inputs that meet the premises of `Obligations.<Name>`. -/

namespace Sys2Proof.Tests

open Sys2Proof.Machine

/-! ### Words, written out from R84 and R88: OPC in bits 15:8, CNT in bits 7:0 -/

theorem test_word_rdbit : decodeBR 0b00000001_00000000#16 = .command .rdbit := by decide

theorem test_word_rdbits : decodeBR 0b00000010_00010100#16 = .command (.rdbits 20) := by decide

theorem test_word_rdbyte : decodeBR 0b00000011_00000000#16 = .command .rdbyte := by decide

theorem test_word_wrbit : decodeBW 0b00010001_00000000#16 1#128 = .command (.wrbit 1#128) := by decide

theorem test_word_wrbits : decodeBW 0b00010010_10000000#16 9#128 = .command (.wrbits 9#128 128) := by decide

theorem test_word_wrbyte : decodeBW 0b00010011_00000000#16 0xFB#128 = .command (.wrbyte 0xFB#128) := by decide

theorem test_word_pad : decodeBW 0b00010100_00000000#16 0#128 = .command .pad := by decide

theorem test_word_fpad : decodeBW 0b00010101_00000000#16 0#128 = .command .fpad := by decide

theorem test_word_flush : decodeBW 0b00010110_00000000#16 0#128 = .command .flush := by decide

/-- Illegal words of R89: OPC 0x00, CNT not 0 in format F0, the other engine's opcode, an unused opcode. -/
theorem test_word_illegal :
    decodeBR 0x0000#16 = .illegal .unknownOpcode ∧ decodeBR 0x0301#16 = .illegal .nonzeroCount ∧
      decodeBR 0x1200#16 = .illegal .otherEngine ∧ decodeBW 0x1480#16 0#128 = .illegal .nonzeroCount ∧
      decodeBW 0x0200#16 0#128 = .illegal .otherEngine ∧ decodeBW 0x1000#16 0#128 = .illegal .unknownOpcode := by
  decide

/-- The two rows of R88 that keep a count keep all of it; the table word of each engine reaches that engine. -/
theorem test_table_words :
    decodeTableWord 16 0x02FF = some (.rdbits 255) ∧ decodeTableWord 16 0x1281 = some (.wrbits 0#128 129) ∧
      decodeTableWord 16 0x1600 = some .flush ∧ decodeTableWord 16 0x1700 = none := by
  decide

/-! ### Well-formed commands: one check, the count of RDBITS and of WRBITS (R84, R94) -/

theorem test_ill_formed_rdbits : (Instr.rdbits 256).wellFormed = false := by decide

theorem test_ill_formed_wrbits : (Instr.wrbits 0#128 256).wellFormed = false := by decide

theorem test_well_formed_counts :
    (Instr.rdbits 255).wellFormed = true ∧ (Instr.wrbits 0#128 255).wellFormed = true := by decide

/-! ### Small states -/

/-- BR with this CUR and ROFF over these answers, all else as after reset. -/
def rdState (cur : Byte) (roff : Offset) (answers : List SrcAnswer) : State :=
  { State.reset with rd := { ReadSide.reset with cur := cur, roff := roff, answers := answers } }

/-- BW with this PEND and WOFF over these answers, all else as after reset. -/
def wrState (pend : Byte) (woff : Offset) (answers : List SnkAnswer) : State :=
  { State.reset with wr := { WriteSide.reset with pend := pend, woff := woff, answers := answers } }

/-- Answers EOS, IOERR and ZERO of R53 and R58. -/
def eos : SrcAnswer := ⟨1#2, 0#8, 0#Config.iocodeW⟩

def srcError (c : IoCode) : SrcAnswer := ⟨2#2, 0#8, c⟩

def zero : SnkAnswer := ⟨1#2, 0#Config.iocodeW⟩

def snkError (c : IoCode) : SnkAnswer := ⟨3#2, c⟩

/-- The code of an IOERR answer is passed on as it is, whatever IOCODE_W is; bit 0 of KIND is ignored (R53, R58). -/
theorem test_error_code_passes (c : IoCode) :
    srcReply (srcError c) = .ioerr c ∧ writeReply (snkError c) = .ioerr c ∧ flushReply (snkError c) = .ioerr c :=
  by simp [srcReply, writeReply, flushReply, srcError, snkError]

/-- STATUS, DATA, CUR after, ROFF after and fetches: the columns of the BR vectors. -/
def brRow : Host.Outcome State Fault Refusal → Option (Option BrResponse × Byte × Offset × Nat)
  | .next t => some (t.rd.phase.response, t.rd.cur, t.rd.roff, t.rd.fetches)
  | .fault _ => none
  | .refused _ => none

/-- STATUS, PEND after, WOFF after and sink requests: the columns of the BW vectors. -/
def bwRow : Host.Outcome State Fault Refusal → Option (Option BwResponse × Byte × Offset × List SnkRequest)
  | .next t => some (t.wr.phase.response, t.wr.pend, t.wr.woff, t.wr.requests)
  | .fault _ => none
  | .refused _ => none

/-! ### BR, one command each -/

/-- R114's example. -/
theorem test_rdbit_refills :
    brRow (exec .rdbit (rdState 0#8 8#4 [byteAnswer 0xA0#8])) =
      some (some ⟨.ok, 1#128, 0#Config.iocodeW⟩, 0x40#8, 1#4, 1) := by decide

/-- "a reader with zero remaining source bytes fails `read_bit` with `UnexpectedEndOfInput`" (R114). -/
theorem test_rdbit_end_of_stream :
    brRow (exec .rdbit (rdState 0#8 8#4 [eos])) =
      some (some ⟨.unexpectedEndOfInput, 0#128, 0#Config.iocodeW⟩, 0#8, 8#4, 1) := by decide

/-- R118's example, second command: the read crosses a byte boundary. -/
theorem test_rdbits_crosses_bytes :
    brRow (exec (.rdbits 7) (rdState 0x20#8 3#4 [byteAnswer 0xC3#8])) =
      some (some ⟨.ok, 19#128, 0#Config.iocodeW⟩, 0x0C#8, 2#4, 1) := by decide

/-- The document's example of R116: `[0x84, 0xC3]` read as 16 bits. -/
theorem test_rdbits_two_bytes :
    brRow (exec (.rdbits 16) (rdState 0#8 8#4 [byteAnswer 0x84#8, byteAnswer 0xC3#8])) =
      some (some ⟨.ok, 33987#128, 0#Config.iocodeW⟩, 0x00#8, 8#4, 2) := by decide

/-- R119's example, second command. -/
theorem test_rdbyte_unaligned :
    brRow (exec .rdbyte (rdState 0x40#8 4#4 [byteAnswer 0xC3#8])) =
      some (some ⟨.ok, 0x4C#128, 0#Config.iocodeW⟩, 0x30#8, 4#4, 1) := by decide

/-- R122, R184: the bits read before the failure are not delivered, the code is passed through. -/
theorem test_rdbyte_io_error (c : IoCode) :
    brRow (exec .rdbyte (rdState 0x40#8 4#4 [srcError c])) =
      some (some ⟨.underlyingIOError, 0#128, c⟩, 0x00#8, 8#4, 1) := by
  with_unfolding_all rfl

/-! ### BW, one command each -/

/-- R145: the eighth bit of `1,1,1,1,1,0,1,1` emits 0xFB in the same command. -/
theorem test_wrbit_eighth :
    bwRow (exec (.wrbit 1#128) (wrState 0x7D#8 7#4 [goodAnswer])) =
      some (some ⟨.ok, 0#Config.iocodeW⟩, 0x00#8, 0#4, [.write 0xFB#8]) := by decide

/-- R145, R86: W_VAL[127:1] is ignored. -/
theorem test_wrbit_ignores_high_bits :
    bwRow (exec (.wrbit 0xFE#128) (wrState 0x01#8 1#4 [])) =
      some (some ⟨.ok, 0#Config.iocodeW⟩, 0x02#8, 2#4, []) := by decide

/-- R147's example, second command. -/
theorem test_wrbits_crosses_bytes :
    bwRow (exec (.wrbits 0x5#128 4) (wrState 0x1F#8 5#4 [goodAnswer])) =
      some (some ⟨.ok, 0#Config.iocodeW⟩, 0x01#8, 1#4, [.write 0xFA#8]) := by decide

/-- Program P1, row 2. -/
theorem test_wrbits_nine :
    bwRow (exec (.wrbits 0x1F3#128 9) (wrState 0x05#8 3#4 [goodAnswer])) =
      some (some ⟨.ok, 0#Config.iocodeW⟩, 0x03#8, 4#4, [.write 0xBF#8]) := by decide

/-- Program P1, row 4. -/
theorem test_wrbyte_unaligned :
    bwRow (exec (.wrbyte 0xA5#128) (wrState 0x07#8 5#4 [goodAnswer])) =
      some (some ⟨.ok, 0#Config.iocodeW⟩, 0x05#8, 5#4, [.write 0x3D#8]) := by decide

/-- R150's example. -/
theorem test_wrbyte_aligned :
    bwRow (exec (.wrbyte 0xFB#128) (wrState 0x00#8 0#4 [goodAnswer])) =
      some (some ⟨.ok, 0#Config.iocodeW⟩, 0x00#8, 0#4, [.write 0xFB#8]) := by decide

/-- "writing a single `true` bit then calling `pad_to_byte` yields byte `[128]`" (R153). -/
theorem test_pad_one_bit :
    bwRow (exec .pad (wrState 0x01#8 1#4 [goodAnswer])) =
      some (some ⟨.ok, 0#Config.iocodeW⟩, 0x00#8, 0#4, [.write 0x80#8]) := by decide

/-- R153: PAD on a byte-aligned BW makes no request. -/
theorem test_pad_aligned :
    bwRow (exec .pad (wrState 0x00#8 0#4 [goodAnswer])) = some (some ⟨.ok, 0#Config.iocodeW⟩, 0x00#8, 0#4, []) := by decide

/-- Program P3, row 4: FPAD does not shift the bits up. -/
theorem test_fpad_three_bits :
    bwRow (exec .fpad (wrState 0x05#8 3#4 [goodAnswer])) =
      some (some ⟨.ok, 0#Config.iocodeW⟩, 0x00#8, 0#4, [.write 0x05#8]) := by decide

/-- R224 (a): FPAD on a byte-aligned BW emits 0x00. -/
theorem test_fpad_aligned :
    bwRow (exec .fpad (wrState 0x00#8 0#4 [goodAnswer])) =
      some (some ⟨.ok, 0#Config.iocodeW⟩, 0x00#8, 0#4, [.write 0x00#8]) := by decide

/-- R159's example. -/
theorem test_flush_three_bits :
    bwRow (exec .flush (wrState 0x05#8 3#4 [goodAnswer, goodAnswer])) =
      some (some ⟨.ok, 0#Config.iocodeW⟩, 0x00#8, 0#4, [.write 0xA0#8, .flush]) := by decide

/-- R159, R191: no FLUSH request when the padded byte is not accepted. -/
theorem test_flush_padding_fails :
    bwRow (exec .flush (wrState 0x05#8 3#4 [zero, goodAnswer])) =
      some (some ⟨.zeroBytesWritten, 0#Config.iocodeW⟩, 0xA0#8, 8#4, [.write 0xA0#8]) := by decide

/-! ### The step -/

/-- The table's words run as the first command after reset, on both ports. -/
theorem test_fetch_word_runs :
    brRow (step (State.reset.withFetchWord 16 0x0200)) = some (some ⟨.ok, 0#128, 0#Config.iocodeW⟩, 0#8, 8#4, 0) ∧
      bwRow (step (State.reset.withFetchWord 16 0x1203)) = some (some ⟨.ok, 0#Config.iocodeW⟩, 0#8, 3#4, []) := by decide

/-- A fetch with no prompt answer waits; taken and answered late it ends as R114's example does. -/
theorem test_late_answer :
    brRow (.next { State.reset with
      rd := srcAnswered (byteAnswer 0xA0#8) (srcAccepted (rdbitCommand ReadSide.reset)) }) =
      some (some ⟨.ok, 1#128, 0#Config.iocodeW⟩, 0x40#8, 1#4, 1) := by decide

/-! ### Premises are met: encodings, reset, handshakes -/

/-- A state of the two engines and an inbox. -/
def mkState (rd : ReadSide) (wr : WriteSide) (inbox : List Event) : State := ⟨rd, wr, inbox⟩

/-- BR and BW after reset in a phase, and with a latch. -/
def brIn (phase : BrPhase) (flt : Bool) : ReadSide := { ReadSide.reset with phase := phase, rflt := flt }

def bwIn (phase : BwPhase) (flt : Bool) : WriteSide := { WriteSide.reset with phase := phase, wflt := flt }

def brAnswer : BrResponse := ⟨.ok, 1#128, 0#Config.iocodeW⟩

def bwAnswer : BwResponse := ⟨.ok, 0#Config.iocodeW⟩

/-- Both ends of the range of CNT. -/
theorem test_meets_EncodedCommandDecodesBack :
    (Instr.rdbits 0).wellFormed = true ∧ (Instr.wrbits (BitVec.allOnes 128) 255).wellFormed = true := by decide

theorem test_meets_DecodedCommandEncodesBack :
    decodeOn .br 0x02FF#16 0#128 = .command (.rdbits 255) ∧
      decodeOn .bw 0x1100#16 2#128 = .command (.wrbit 2#128) := by decide

theorem test_meets_ResetOfIdleEngine :
    (∃ s : State, s.inbox = .brReset :: [] ∧ s.rd.phase = .idle ∧ s.rd.rflt = true) ∧
      (∃ s : State, s.inbox = .bwReset :: [] ∧ s.wr.phase = .idle ∧ s.wr.wflt = true) :=
  ⟨⟨mkState (brIn .idle true) .reset [.brReset], by decide⟩,
    ⟨mkState .reset (bwIn .idle true) [.bwReset], by decide⟩⟩

theorem test_meets_ResetInMidCommandIsRefused :
    (∃ s : State, s.inbox = .brReset :: [] ∧ s.rd.phase ≠ .idle) ∧
      (∃ s : State, s.inbox = .bwReset :: [] ∧ s.wr.phase ≠ .idle) :=
  ⟨⟨mkState (brIn (.responding brAnswer) false) .reset [.brReset], by decide⟩,
    ⟨mkState .reset (bwIn (.awaiting .fpad) false) [.bwReset], by decide⟩⟩

theorem test_meets_OnlyResetClearsALatch :
    (∃ s t : State, step s = .next t ∧ s.rd.rflt = true ∧ t.rd.rflt = false) ∧
      (∃ s t : State, step s = .next t ∧ s.wr.wflt = true ∧ t.wr.wflt = false) :=
  ⟨⟨mkState (brIn .idle true) .reset [.brReset], _, rfl, by decide⟩,
    ⟨mkState .reset (bwIn .idle true) [.bwReset], _, rfl, by decide⟩⟩

theorem test_meets_StepRunsTheOfferedCommand :
    (∃ s : State, s.inbox = .brCommand 0x0281#16 :: [.brTake] ∧ s.rd.phase = .idle ∧
      decodeBR 0x0281#16 = .command (.rdbits 129)) ∧
      (∃ s : State, s.inbox = .bwCommand 0x1400#16 5#128 :: [] ∧ s.wr.phase = .idle ∧
        decodeBW 0x1400#16 5#128 = .command .pad) :=
  ⟨⟨mkState .reset .reset [.brCommand 0x0281#16, .brTake], by decide⟩,
    ⟨mkState .reset .reset [.bwCommand 0x1400#16 5#128], by decide⟩⟩

theorem test_meets_OfferedCommandRunsNext : (Instr.wrbits 1#128 255).wellFormed = true := by decide

theorem test_meets_IllegalWordIsAnsweredWithoutEffect :
    (∃ s : State, s.inbox = .brCommand 0x0101#16 :: [] ∧ s.rd.phase = .idle ∧ s.rd.rflt = false ∧
      (decodeBR 0x0101#16).command? = none) ∧
      (∃ s : State, s.inbox = .bwCommand 0x1700#16 0#128 :: [] ∧ s.wr.phase = .idle ∧ s.wr.wflt = true ∧
        (decodeBW 0x1700#16 0#128).command? = none) :=
  ⟨⟨mkState .reset .reset [.brCommand 0x0101#16], by decide⟩,
    ⟨mkState .reset (bwIn .idle true) [.bwCommand 0x1700#16 0#128], by decide⟩⟩

/-- A busy engine with a command offered, and a step that can happen. -/
theorem test_meets_BusyEngineTakesNoCommand :
    (∃ s t : State, step s = .next t ∧ s.rd.phase ≠ .idle ∧ t.inbox = [.brCommand 0x0100#16]) ∧
      (∃ s t : State, step s = .next t ∧ s.wr.phase ≠ .idle ∧ t.inbox = [.bwCommand 0x1400#16 0#128]) :=
  ⟨⟨mkState (brIn (.requesting .rdbit) false) .reset [.brCommand 0x0100#16, .srcAccept], _, rfl, by decide⟩,
    ⟨mkState .reset (bwIn (.responding bwAnswer) false) [.bwCommand 0x1400#16 0#128, .bwTake], _, rfl, by decide⟩⟩

theorem test_meets_TakenResponseFreesTheEngine :
    (∃ s : State, s.inbox = .brTake :: [] ∧ s.rd.phase = .responding brAnswer) ∧
      (∃ s : State, s.inbox = .bwTake :: [] ∧ s.wr.phase = .responding bwAnswer) :=
  ⟨⟨mkState (brIn (.responding brAnswer) false) .reset [.brTake], by decide⟩,
    ⟨mkState .reset (bwIn (.responding bwAnswer) false) [.bwTake], by decide⟩⟩

/-- Each engine waits for an answer while the other takes a command, and while an answer is presented behind that. -/
theorem test_meets_WaitingEngineIsStuckUntilAnswered :
    (∃ s t : State, step s = .next t ∧ s.rd.phase = .awaiting .rdbit ∧ t.rd = s.rd) ∧
      (∃ s t : State, step s = .next t ∧ s.wr.phase = .awaiting .fpad ∧ t.wr ≠ s.wr) :=
  ⟨⟨mkState (brIn (.awaiting .rdbit) false) .reset [.bwCommand 0x1400#16 0#128, .srcAnswer eos], _, rfl, rfl, rfl⟩,
    ⟨mkState .reset (bwIn (.awaiting .fpad) false) [.bwTake, .snkAnswer goodAnswer], _, rfl, by decide⟩⟩

/-- Each of the four clauses: a step of the other engine with the transfer presented behind it, or the transfer. -/
theorem test_meets_PresentedPayloadIsHeld :
    (∃ s t : State, step s = .next t ∧ s.rd.phase = .responding brAnswer ∧ t.rd = s.rd) ∧
      (∃ s t : State, step s = .next t ∧ s.rd.phase = .requesting .rdbyte ∧ t.rd ≠ s.rd) ∧
      (∃ s t : State, step s = .next t ∧ s.wr.phase = .responding bwAnswer ∧ t.wr ≠ s.wr) ∧
      (∃ s t : State, step s = .next t ∧ s.wr.phase = .requesting .flushSink ∧ t.wr = s.wr) :=
  ⟨⟨mkState (brIn (.responding brAnswer) false) .reset [.bwCommand 0x1400#16 0#128, .brTake], _, rfl, by decide⟩,
    ⟨mkState (brIn (.requesting .rdbyte) false) .reset [.srcAnswer eos, .srcAccept], _, rfl, by decide⟩,
    ⟨mkState .reset (bwIn (.responding bwAnswer) false) [.bwTake], _, rfl, by decide⟩,
    ⟨mkState .reset (bwIn (.requesting .flushSink) false) [.brCommand 0x0100#16, .snkAccept], _, rfl, by decide⟩⟩

/-- A fetch, a WRITE and a FLUSH request presented, each taken next. -/
theorem test_meets_TakenRequestIsOutstanding :
    (∃ s : State, s.inbox = .srcAccept :: [] ∧ s.rd.phase = .requesting .rdbits) ∧
      (∃ s : State, s.inbox = .snkAccept :: [] ∧ s.wr.phase = .requesting .fpad) ∧
      (∃ s : State, s.inbox = .snkAccept :: [] ∧ s.wr.phase = .requesting .flushSink) :=
  ⟨⟨mkState (brIn (.requesting .rdbits) false) .reset [.srcAccept], by decide⟩,
    ⟨mkState .reset (bwIn (.requesting .fpad) false) [.snkAccept], by decide⟩,
    ⟨mkState .reset (bwIn (.requesting .flushSink) false) [.snkAccept], by decide⟩⟩

/-- Nothing ready with both engines idle, nothing ready with one waiting, and something ready behind something that is
not. -/
theorem test_meets_NoStepExactlyWhenNothingIsReady :
    step (mkState .reset .reset [.brTake]) = .fault .runOver ∧
      step (mkState (brIn (.awaiting .rdbit) false) .reset [.brCommand 0x0100#16]) = .fault .awaitingEnvironment ∧
      (∃ t : State, step (mkState .reset .reset [.brTake, .brReset]) = .next t) := ⟨rfl, rfl, _, rfl⟩

/-- A command of each engine; then a state for each clause that waits: RDBIT at ROFF = 8, RDBITS 128 with one byte
given, RDBYTE; WRBIT at WOFF = 7, WRBITS 128 with one write answered, WRBYTE; FPAD and FLUSH byte-aligned; PAD and FLUSH
with one bit pending, and FLUSH with its write answered. -/
theorem test_meets_EveryCommandRespondsOrRequests :
    (Instr.rdbyte.port = .br ∧ Instr.flush.port = .bw) ∧
    (∃ s : State, s = rdState 0#8 8#4 [] ∧ s.rd.rflt = false ∧ AnswerBytes s.rd.answers [] ∧
      8 - s.rd.roff.toNat + 8 * 0 < 1) ∧
    (∃ s : State, s = rdState 0x80#8 1#4 [byteAnswer 3#8] ∧ s.rd.rflt = false ∧ s.rd.roff.toNat ≤ 8 ∧
      AnswerBytes s.rd.answers [3#8] ∧ 8 - s.rd.roff.toNat + 8 * 1 < 128) ∧
    (∃ s : State, s = rdState 0x80#8 1#4 [] ∧ AnswerBytes s.rd.answers [] ∧ 8 - s.rd.roff.toNat + 8 * 0 < 8) ∧
    (∃ s : State, s = wrState 0x7F#8 7#4 [] ∧ s.wr.wflt = false ∧ s.wr.pendingInv ∧ AllAccepted s.wr.answers ∧
      s.wr.answers.length < (s.wr.woff.toNat + 1) / 8) ∧
    (∃ s : State, s = wrState 0x7F#8 7#4 [goodAnswer] ∧ s.wr.pendingInv ∧ AllAccepted s.wr.answers ∧
      s.wr.answers.length < (s.wr.woff.toNat + 128) / 8) ∧
    (∃ s : State, s = wrState 0#8 0#4 [] ∧ s.wr.pendingInv ∧ AllAccepted s.wr.answers ∧
      s.wr.answers.length < (s.wr.woff.toNat + 8) / 8 ∧ s.wr.woff = 0#4 ∧ s.wr.answers = []) ∧
    (∃ s : State, s = wrState 1#8 1#4 [] ∧ s.wr.pendingInv ∧ s.wr.woff ≠ 0#4 ∧ s.wr.answers = []) ∧
    (∃ s : State, s = wrState 1#8 1#4 [goodAnswer] ∧ s.wr.pendingInv ∧ s.wr.woff ≠ 0#4 ∧
      s.wr.answers = [goodAnswer] ∧ writeReply goodAnswer = .accepted) := by
  unfold WriteSide.pendingInv AllAccepted AnswerBytes
  exact ⟨by decide, ⟨_, rfl, by decide⟩, ⟨_, rfl, by decide⟩, ⟨_, rfl, by decide⟩, ⟨_, rfl, by decide⟩,
    ⟨_, rfl, by decide⟩, ⟨_, rfl, by decide⟩, ⟨_, rfl, by decide⟩, ⟨_, rfl, by decide⟩⟩

/-- No answer without delay: RDBITS 12 waits with the 8 bits it has, and FPAD with the byte it presents. -/
theorem test_waits_without_answer :
    (∃ t : State, exec (.rdbits 12) (rdState 0#8 8#4 [byteAnswer 0xA5#8]) = .next t ∧
      t.rd.phase = .requesting .rdbits ∧ t.rd.acc = 0xA5#128 ∧ t.rd.bcnt = 4#8) ∧
    (∃ t : State, exec .fpad (wrState 5#8 3#4 []) = .next t ∧ kReq t = some (0#1, 5#8)) :=
  ⟨⟨_, rfl, by decide⟩, ⟨_, rfl, by decide⟩⟩

/-! ### Premises are met: errors -/

theorem test_meets_FaultedEngineDoesNothingElse :
    ((Instr.rdbits 0).port = .br ∧ (brIn .idle true).rflt = true) ∧
      (Instr.fpad.port = .bw ∧ (bwIn .idle true).wflt = true) ∧
      (mkState (brIn .idle true) .reset [.brCommand 0#16]).inbox = .brCommand 0#16 :: [] ∧
      (mkState .reset (bwIn .idle true) [.bwCommand 0#16 0#128]).inbox = .bwCommand 0#16 0#128 :: [] := by decide

/-- 129 is the first count refused, 255 the last that a word can carry. -/
theorem test_meets_TooWideCountIsRefused :
    128 < 129 ∧ 128 < 255 ∧ State.reset.rd.rflt = false ∧ State.reset.wr.wflt = false ∧
      (∃ t : State, exec (.rdbits 129) State.reset = .next t ∧ t.rd.phase = .responding ⟨.invalidBitWidth, 0#128, 0#Config.iocodeW⟩) ∧
      (∃ t : State, exec (.wrbits 0#128 129) State.reset = .next t ∧ t.wr.phase = .responding ⟨.invalidBitWidth, 0#Config.iocodeW⟩) :=
  ⟨by decide, by decide, rfl, rfl, ⟨_, rfl, rfl⟩, ⟨_, rfl, rfl⟩⟩

theorem test_meets_RefusedCommandHasNoEffect :
    (∃ t q, step (mkState .reset .reset [.brCommand 0x0281#16]) = .next t ∧ t.rd.phase = .responding q ∧
      q.status = .invalidBitWidth) ∧
      (∃ t q, step (mkState .reset .reset [.bwCommand 0x1401#16 0#128]) = .next t ∧ t.wr.phase = .responding q ∧
        q.status = .illegalCommand) ∧
      (∃ t q, step (mkState .reset (bwIn .idle true) [.bwCommand 0x1401#16 0#128]) = .next t ∧
        t.wr.phase = .responding q ∧ q.status = .engineFaulted) :=
  ⟨⟨_, _, rfl, rfl, rfl⟩, ⟨_, _, rfl, rfl, rfl⟩, ⟨_, _, rfl, rfl, rfl⟩⟩

/-- A command that latches on each engine, and one that does not. -/
theorem test_meets_StreamErrorsLatchAndNothingElseDoes :
    (∃ t, exec .rdbit (rdState 0#8 8#4 [eos]) = .next t ∧ t.rd.rflt = true) ∧
      (∃ t, exec .rdbit (rdState 0x80#8 7#4 [eos]) = .next t ∧ t.rd.rflt = false) ∧
      (∃ t, exec .fpad (wrState 0#8 0#4 [zero]) = .next t ∧ t.wr.wflt = true) ∧
      (∃ t, exec .fpad (wrState 0#8 0#4 [goodAnswer]) = .next t ∧ t.wr.wflt = false) :=
  ⟨⟨_, rfl, by decide⟩, ⟨_, rfl, by decide⟩, ⟨_, rfl, by decide⟩, ⟨_, rfl, by decide⟩⟩

theorem test_meets_ResponsesHaveTheStatedForm :
    (∃ t q, exec .rdbit (rdState 0#8 8#4 [(srcError 0#Config.iocodeW)]) = .next t ∧ t.rd.phase = .responding q ∧
      q.iocode = 0#Config.iocodeW) ∧
      (∃ t q, exec .flush (wrState 0#8 0#4 [(snkError 0#Config.iocodeW)]) = .next t ∧ t.wr.phase = .responding q ∧
        q.iocode = 0#Config.iocodeW) :=
  ⟨⟨_, _, rfl, rfl, rfl⟩, ⟨_, _, rfl, rfl, rfl⟩⟩

/-! ### Premises are met: BR -/

/-- A raise; ROFF = 7, the last bit of a byte, and ROFF = 8. -/
theorem test_meets_ReadBitRefillsOnlyWhenExhausted :
    (∃ r', readBit (rdState 0#8 8#4 [eos]).rd = .raise .unexpectedEndOfInput r') ∧
    (∃ r', readBit (rdState 0x80#8 7#4 []).rd = .ok true r') ∧
      (∃ r', readBit (rdState 0#8 8#4 [byteAnswer 0x7F#8]).rd = .ok false r') :=
  ⟨⟨_, rfl⟩, ⟨_, rfl⟩, ⟨_, rfl⟩⟩

/-- Inside the lookahead, at its end with each kind of answer, and with none. -/
theorem test_meets_RdbitReadsTheNextBit :
    (rdState 0x80#8 7#4 []).rd.rflt = false ∧ (rdState 0x80#8 7#4 []).rd.roff ≠ 8#4 ∧
      srcReply (byteAnswer 5#8) = .byte 5#8 ∧ srcReply eos = .eos ∧ srcReply (srcError 0#Config.iocodeW) = .ioerr 0#Config.iocodeW ∧
      (rdState 0#8 8#4 [eos]).rd.answers = eos :: [] ∧ (rdState 0#8 8#4 []).rd.answers = [] := by decide

/-- One state for each clause: `n` inside the lookahead; `n` ending on a byte; `n` ending within one; and `n = 128`
from ROFF = 8, with 16 fetches. -/
theorem test_meets_RdbitsClosedForm :
    (∃ s : State, s = rdState 0xC0#8 6#4 [] ∧ s.rd.rflt = false ∧ s.rd.roff.toNat ≤ 8 ∧ s.rd.answers = [] ++ [] ∧
      AnswerBytes [] [] ∧ 0 = (2 - (8 - s.rd.roff.toNat) + 7) / 8 ∧ 2 ≤ 8 - s.rd.roff.toNat) ∧
    (∃ s : State, s = rdState 0xC0#8 6#4 [byteAnswer 3#8, eos] ∧ s.rd.rflt = false ∧ s.rd.roff.toNat ≤ 8 ∧
      s.rd.answers = [byteAnswer 3#8] ++ [eos] ∧ AnswerBytes [byteAnswer 3#8] [3#8] ∧
      1 = (10 - (8 - s.rd.roff.toNat) + 7) / 8 ∧ 8 - s.rd.roff.toNat < 10 ∧ (10 - (8 - s.rd.roff.toNat)) % 8 = 0) ∧
    (∃ s : State, s = rdState 0xC0#8 6#4 [byteAnswer 3#8] ∧ s.rd.rflt = false ∧ s.rd.roff.toNat ≤ 8 ∧
      s.rd.answers = [byteAnswer 3#8] ++ [] ∧ AnswerBytes [byteAnswer 3#8] [3#8] ∧
      1 = (3 - (8 - s.rd.roff.toNat) + 7) / 8 ∧ (3 - (8 - s.rd.roff.toNat)) % 8 ≠ 0 ∧ [3#8].getLast? = some 3#8) ∧
    (∃ (s : State) (as : List SrcAnswer) (bs : List Byte), s = rdState 0#8 8#4 as ∧ s.rd.rflt = false ∧
      s.rd.roff.toNat ≤ 8 ∧ s.rd.answers = as ++ [] ∧ AnswerBytes as bs ∧
      bs.length = (128 - (8 - s.rd.roff.toNat) + 7) / 8) :=
  ⟨⟨_, rfl, rfl, by decide, rfl, rfl, by decide⟩, ⟨_, rfl, rfl, by decide, rfl, rfl, by decide⟩,
    ⟨_, rfl, rfl, by decide, rfl, rfl, by decide⟩,
    ⟨_, List.replicate 16 (byteAnswer 7#8), List.replicate 16 7#8, rfl, rfl, by decide, rfl, rfl, rfl⟩⟩

theorem test_meets_RdbitsOfZeroBits : (rdState 0#8 8#4 [eos]).rd.rflt = false := by decide

/-- ROFF = 1 and ROFF = 8. -/
theorem test_meets_RdbyteJoinsTwoStreamBytes :
    (rdState 0x02#8 1#4 [byteAnswer 5#8]).rd.cur = 0x81#8 <<< (1#4).toNat ∧
      (rdState 0#8 8#4 [byteAnswer 5#8]).rd.cur = 0x81#8 <<< (8#4).toNat ∧
      srcReply (byteAnswer 5#8) = .byte 5#8 := by decide

theorem test_meets_RdbyteIsRdbitsOfEight :
    ∃ t u : State, exec .rdbyte State.reset = .next t ∧ exec (.rdbits 8) State.reset = .next u :=
  ⟨_, _, rfl, rfl⟩

/-- A state for the shortest failing read at ROFF = 8, one for a read that fails after a byte, and one for RDBYTE. -/
theorem test_meets_RdbitsFailsInMidCommand :
    (∃ s : State, s = rdState 0#8 8#4 [eos] ∧ s.rd.rflt = false ∧ s.rd.roff.toNat ≤ 8 ∧ s.rd.answers = [] ++ eos :: [] ∧
      AnswerBytes [] [] ∧ 8 - s.rd.roff.toNat + 8 * 0 < 1 ∧ srcReply eos = .eos) ∧
    (∃ (s : State) (a : SrcAnswer), s = rdState 0x80#8 7#4 [byteAnswer 3#8, a] ∧ s.rd.rflt = false ∧
      s.rd.roff.toNat ≤ 8 ∧ s.rd.answers = [byteAnswer 3#8] ++ a :: [] ∧ AnswerBytes [byteAnswer 3#8] [3#8] ∧
      8 - s.rd.roff.toNat + 8 * 1 < 10 ∧ srcReply a = .ioerr 0#Config.iocodeW) ∧
    (∃ s : State, s = rdState 0x80#8 7#4 [eos] ∧ s.rd.rflt = false ∧ s.rd.roff.toNat ≤ 8 ∧
      s.rd.answers = [] ++ eos :: [] ∧ AnswerBytes [] [] ∧ 8 - s.rd.roff.toNat + 8 * 0 < 8 ∧ srcReply eos = .eos) :=
  ⟨⟨_, rfl, rfl, by decide, rfl, rfl, by decide⟩,
    ⟨_, srcError 0#Config.iocodeW, rfl, rfl, by decide, rfl, rfl, by decide⟩,
    ⟨_, rfl, rfl, by decide, rfl, rfl, by decide⟩⟩

theorem test_meets_ReaderCommandFrame :
    Instr.rdbit.port = .br ∧ ∃ t : State, exec .rdbit (rdState 0#8 8#4 [eos]) = .next t := ⟨rfl, _, rfl⟩

/-- A read of 5 + 4 bits that answers OK. -/
theorem test_meets_RdbitsSplitsAnywhere :
    ∃ (u : State) (z : Value),
      exec (.rdbits (5 + 4)) (rdState 0#8 8#4 [byteAnswer 0xA5#8, byteAnswer 0xFF#8]) = .next u ∧
        u.rd.phase = .responding ⟨.ok, z, 0#Config.iocodeW⟩ :=
  ⟨_, 0x14B#128, rfl, by decide⟩

/-- A read that waits in the middle of its second byte. -/
theorem test_meets_LateSourceAnswerIsAsGoodAsPrompt :
    ∃ t u : State, exec .rdbyte (rdState 0x80#8 4#4 []) = .next t ∧ t.rd.phase.isRequesting = true ∧
      exec .rdbyte (rdState 0x80#8 4#4 [byteAnswer 1#8]) = .next u :=
  ⟨_, _, rfl, by decide, rfl⟩

/-! ### Premises are met: BW -/

/-- WOFF = 0, 6 and 7, each kind of answer, and none. -/
theorem test_meets_ByteAccumulationCycle :
    (wrState 0#8 0#4 []).wr.woff.toNat ≤ 6 ∧ (wrState 0x3F#8 6#4 []).wr.woff.toNat ≤ 6 ∧
      (wrState 0x7F#8 7#4 [zero]).wr.answers = zero :: [] ∧ (wrState 0x7F#8 7#4 []).wr.answers = [] ∧
      writeReply goodAnswer = .accepted ∧ writeReply zero = .zero ∧ writeReply (snkError 0#Config.iocodeW) = .ioerr 0#Config.iocodeW := by
  decide

theorem test_meets_WrbitShiftsInOneBit :
    (wrState 0x3F#8 6#4 []).wr.wflt = false ∧ (wrState 0x3F#8 6#4 []).wr.woff.toNat ≤ 6 ∧
      (wrState 0x7F#8 7#4 [(snkError 0#Config.iocodeW)]).wr.woff = 7#4 ∧
      (wrState 0x7F#8 7#4 [(snkError 0#Config.iocodeW)]).wr.answers = (snkError 0#Config.iocodeW) :: [] ∧
      writeReply (snkError 0#Config.iocodeW) = .ioerr 0#Config.iocodeW := by decide

/-- `n = 128` from WOFF = 7 (16 writes), and `n = 1` from WOFF = 0 (none). -/
theorem test_meets_WrbitsClosedForm :
    ((wrState 0x7F#8 7#4 []).wr.pendingInv ∧ AllAccepted (List.replicate 16 goodAnswer) ∧
      (List.replicate 16 goodAnswer).length = (7 + 128) / 8) ∧
      ((wrState 0#8 0#4 []).wr.pendingInv ∧ AllAccepted [] ∧ (0 + 1) / 8 = 0) := by
  refine ⟨⟨by unfold WriteSide.pendingInv; decide, ?_, by decide⟩,
    by unfold WriteSide.pendingInv; decide, ?_, by decide⟩
  · intro a ha
    rw [List.eq_of_mem_replicate ha]
    rfl
  · intro a ha
    cases ha

theorem test_meets_WrbitsOfZeroBits : (wrState 5#8 3#4 [zero]).wr.wflt = false := by decide

theorem test_meets_WrbyteEmitsOneByte :
    (wrState 0#8 0#4 [goodAnswer]).wr.pendingInv ∧ (wrState 0x7F#8 7#4 [goodAnswer]).wr.pendingInv ∧
      (wrState 0x7F#8 7#4 [goodAnswer]).wr.answers = goodAnswer :: [] ∧ writeReply goodAnswer = .accepted := by
  unfold WriteSide.pendingInv
  decide

theorem test_meets_WrbyteIsWrbitsOfEight :
    ∃ t u : State, exec (.wrbyte 9#128) (wrState 1#8 1#4 [zero]) = .next t ∧
      exec (.wrbits 9#128 8) (wrState 1#8 1#4 [zero]) = .next u :=
  ⟨_, _, rfl, rfl⟩

/-- Operands that differ above the bits used: WRBIT, WRBITS of 0, 5 and 128 bits, WRBYTE. -/
theorem test_meets_UnusedOperandBitsAreIgnored :
    (0xFE#128).toNat % 2 = (0#128).toNat % 2 ∧ (7#128).toNat % 2 ^ 0 = (0#128).toNat % 2 ^ 0 ∧
      (0x7F#128).toNat % 2 ^ 5 = (0x1F#128).toNat % 2 ^ 5 ∧ (7#128).toNat % 2 ^ 128 = (7#128).toNat % 2 ^ 128 ∧
      (0x1FF#128).toNat % 256 = (0xFF#128).toNat % 256 ∧
      (∃ t : State, exec (.wrbits 0x7F#128 5) State.reset = .next t) :=
  ⟨by decide, by decide, by decide, by decide, by decide, _, rfl⟩

/-- WOFF = 0, 1 and 7. -/
theorem test_meets_PadCompletesThePartialByte :
    (wrState 0#8 0#4 []).wr.woff = 0#4 ∧ (wrState 1#8 1#4 [goodAnswer]).wr.pendingInv ∧
      (wrState 0x7F#8 7#4 [goodAnswer]).wr.pendingInv ∧ (wrState 0x7F#8 7#4 [goodAnswer]).wr.woff ≠ 0#4 := by
  unfold WriteSide.pendingInv
  decide

theorem test_meets_FpadEmitsThePendingByte :
    (wrState 5#8 3#4 [zero]).wr.wflt = false ∧ (wrState 5#8 3#4 [zero]).wr.answers = zero :: [] ∧
      writeReply goodAnswer = .accepted ∧ writeReply zero = .zero ∧ writeReply (snkError 0#Config.iocodeW) = .ioerr 0#Config.iocodeW := by
  decide

/-- WOFF = 0 and 7, and the answers of each clause; K_ANS_KIND 1 to a FLUSH is DONE (R57). -/
theorem test_meets_FlushPadsThenFlushesTheSink :
    (wrState 0#8 0#4 [zero]).wr.pendingInv ∧ (wrState 0x7F#8 7#4 [goodAnswer, zero]).wr.pendingInv ∧
      flushReply zero = .done ∧ flushReply goodAnswer = .done ∧ flushReply (snkError 0#Config.iocodeW) = .ioerr 0#Config.iocodeW ∧
      writeReply goodAnswer = .accepted ∧ writeReply zero = .zero ∧ writeReply (snkError 0#Config.iocodeW) = .ioerr 0#Config.iocodeW := by
  unfold WriteSide.pendingInv
  decide

theorem test_meets_FlushTwiceAddsNoByte :
    (wrState 5#8 3#4 [goodAnswer, goodAnswer]).wr.pendingInv ∧
      ∃ t : State, exec .flush (wrState 5#8 3#4 [goodAnswer, goodAnswer]) = .next t ∧
        t.wr.phase = .responding ⟨.ok, 0#Config.iocodeW⟩ ∧
        ∃ u : State, exec .flush { t with wr := bwResponseTaken t.wr } = .next u :=
  ⟨by unfold WriteSide.pendingInv; decide, _, rfl, by decide, _, rfl⟩

/-- The first write fails, and the last of two. -/
theorem test_meets_WrbitsFailsInMidCommand :
    ((wrState 0x7F#8 7#4 [zero]).wr.pendingInv ∧ AllAccepted [] ∧ ([] : List SnkAnswer).length < (7 + 1) / 8 ∧
      writeReply zero = .zero) ∧
      ((wrState 1#8 1#4 [goodAnswer, (snkError 0#Config.iocodeW)]).wr.pendingInv ∧ AllAccepted [goodAnswer] ∧
        [goodAnswer].length < (1 + 15) / 8 ∧ writeReply (snkError 0#Config.iocodeW) = .ioerr 0#Config.iocodeW) := by
  unfold WriteSide.pendingInv AllAccepted
  decide

theorem test_meets_WriterCommandFrame :
    Instr.flush.port = .bw ∧ ∃ t : State, exec .flush (wrState 5#8 3#4 [goodAnswer]) = .next t := ⟨rfl, _, rfl⟩

theorem test_meets_WrbitsSplitsAnywhere :
    ∃ u : State, exec (.wrbits 0x1F3#128 (5 + 4)) (wrState 5#8 3#4 [goodAnswer]) = .next u ∧
      u.wr.phase = .responding ⟨.ok, 0#Config.iocodeW⟩ :=
  ⟨_, rfl, by decide⟩

/-- A flush that waits with its padded byte. -/
theorem test_meets_LateSinkAnswerIsAsGoodAsPrompt :
    Instr.flush.port = .bw ∧ ∃ t u : State, exec .flush (wrState 5#8 3#4 []) = .next t ∧
      t.wr.phase.isRequesting = true ∧ exec .flush (wrState 5#8 3#4 [goodAnswer]) = .next u :=
  ⟨rfl, _, _, rfl, by decide, rfl⟩

/-! ### Premises are met: both engines -/

theorem test_meets_AtMostSixteenAccessesPerCommand :
    (rdState 0#8 8#4 []).rd.lookaheadInv ∧ (wrState 0x7F#8 7#4 []).wr.pendingInv ∧
      ∃ t : State, exec (.rdbits 128) (rdState 0#8 8#4 []) = .next t :=
  ⟨⟨by decide, by decide, rfl, rfl⟩, by unfold WriteSide.pendingInv; decide, _, rfl⟩

theorem test_meets_EnginesDoNotInterfere :
    ∃ t t' : State, exec .rdbit (rdState 0x80#8 3#4 []) = .next t ∧
      exec .rdbit (mkState (rdState 0x80#8 3#4 []).rd (bwIn .idle true) [.brTake]) = .next t' ∧
      (rdState 0x80#8 3#4 []).rd = (mkState (rdState 0x80#8 3#4 []).rd (bwIn .idle true) [.brTake]).rd :=
  ⟨_, _, rfl, rfl, rfl⟩

/-- A BR in the middle of an RDBITS that meets the invariant, and a step of it. -/
theorem test_meets_ReaderInvariantIsKept :
    ∃ s t : State, s.rd.Inv ∧ s.rd.phase = .awaiting .rdbits ∧ step s = .next t :=
  ⟨mkState { brIn (.awaiting .rdbits) false with bcnt := 128#8, commands := [0x0280#16] } .reset
      [.srcAnswer (byteAnswer 1#8)], _,
    ⟨fun _ => ⟨by decide, by decide, rfl, rfl⟩, ⟨rfl, rfl, rfl, by decide, by decide, by decide, by decide⟩, by decide, rfl, rfl⟩,
    rfl, rfl⟩

/-- A BW in the middle of a WRBITS that meets the invariant, and a step of it. -/
theorem test_meets_WriterInvariantIsKept :
    ∃ s t : State, s.wr.Inv ∧ s.wr.phase = .awaiting .wrbits ∧ step s = .next t :=
  ⟨mkState .reset { bwIn (.awaiting .wrbits) false with
      pend := 0xFF#8, woff := 8#4, widx := 3#8, requests := [.write 0xFF#8], commands := [0x120B#16] }
      [.snkAnswer goodAnswer], _,
    ⟨⟨by decide, List.nil_sublist _⟩, ⟨rfl, rfl, ⟨rfl, by decide⟩, [], rfl, List.nil_sublist _⟩, by decide, rfl, rfl⟩,
    rfl, rfl⟩

/-- An answer for each engine that waits, and each kind of failing answer. -/
theorem test_meets_PresentedAnswerIsTaken :
    (∃ s : State, s.inbox = .srcAnswer eos :: [] ∧ s.rd.phase = .awaiting .rdbits ∧ srcReply eos = .eos) ∧
      (∃ s : State, s.inbox = .snkAnswer zero :: [] ∧ s.wr.phase = .awaiting .flushPad ∧ writeReply zero = .zero) ∧
      (∃ s : State, s.inbox = .snkAnswer (snkError 0#Config.iocodeW) :: [] ∧ s.wr.phase = .awaiting .flushSink ∧
        flushReply (snkError 0#Config.iocodeW) = .ioerr 0#Config.iocodeW) :=
  ⟨⟨mkState (brIn (.awaiting .rdbits) false) .reset [.srcAnswer eos], rfl, rfl, rfl⟩,
    ⟨mkState .reset (bwIn (.awaiting .flushPad) false) [.snkAnswer zero], rfl, rfl, rfl⟩,
    ⟨mkState .reset (bwIn (.awaiting .flushSink) false) [.snkAnswer (snkError 0#Config.iocodeW)], rfl, rfl, by decide⟩⟩

/-! ### Sessions and runs -/

/-- A BW that has taken one FLUSH, answered OK. -/
def flushed : WriteSide := { WriteSide.reset with commands := [0x1600#16], responses := [⟨.ok, 0#Config.iocodeW⟩] }

/-- A BR whose one command met the end of the stream. -/
def endOfStream : ReadSide :=
  { brIn .idle true with commands := [0x0100#16], responses := [⟨.unexpectedEndOfInput, 0#128, 0#Config.iocodeW⟩] }

/-- Ended well, and a run that failed, each in a state that meets the invariant. -/
theorem test_meets_EndedWellSessionsLeaveNothing :
    (∃ s : State, s.Inv ∧ s.wr.endedWell ∧ s.rd.endedWell) ∧ (∃ s : State, s.Inv ∧ s.brRunFailed) :=
  ⟨⟨mkState .reset flushed [], ⟨⟨fun _ => ⟨by decide, by decide, rfl, rfl⟩, trivial, by decide, rfl⟩,
      ⟨by decide, List.nil_sublist _⟩, fun _ => ⟨by decide, by decide⟩, by decide, rfl, fun _ => ⟨rfl, rfl, rfl, rfl⟩⟩,
      ⟨rfl, rfl, rfl⟩, rfl, fun _ h => nomatch h⟩,
    ⟨mkState endOfStream .reset [], ⟨⟨fun h => (nomatch h), trivial, by decide, rfl⟩,
      ⟨by decide, List.nil_sublist _⟩, fun _ => ⟨by decide, by decide⟩, by decide, rfl, fun _ => ⟨rfl, rfl, rfl, rfl⟩⟩,
      rfl, rfl⟩⟩

/-- R215: no FLUSH, no session that ended well: right after reset, and after any reset. -/
theorem test_reset_has_not_ended_well (w : WriteSide) : ¬ (bwReset w).endedWell :=
  fun h => nomatch h.2.1

/-- R215: a refused command after the FLUSH is the last command. R216: a command answered InvalidBitWidth is not OK. -/
theorem test_refused_command_has_not_ended_well :
    ¬ ({ flushed with commands := [0x1600#16, 0x1281#16], responses := flushed.responses ++
        [⟨.invalidBitWidth, 0#Config.iocodeW⟩] } : WriteSide).endedWell ∧
      ¬ ({ ReadSide.reset with commands := [0x0281#16], responses :=
        [⟨.invalidBitWidth, 0#128, 0#Config.iocodeW⟩] } : ReadSide).endedWell := by
  simp [WriteSide.endedWell, WriteSide.flushedLast, ReadSide.endedWell, cmdWord, Opcode.number, flushed]

/-- R217: a run is over with nothing presented, also where a reset and another run follow; it is not over while a
command is presented, a response waits, or the stream has not answered. -/
theorem test_run_over :
    brRunOver (mkState .reset .reset [.brReset, .brCommand 0x0100#16]) = true ∧
      brRunOver (mkState .reset .reset [.bwTake, .brCommand 0x0100#16]) = false ∧
      brRunOver (mkState (brIn (.responding brAnswer) false) .reset []) = false ∧
      bwRunOver (mkState .reset (bwIn (.awaiting .fpad) false) []) = false := by decide

/-! ### Premises are met: what the host builds -/

theorem test_meets_RdbytesReturnsTheSourceBytes :
    (rdState 0#8 8#4 [byteAnswer 3#8, eos]).rd.answers = [byteAnswer 3#8] ++ [eos] ∧
      AnswerBytes [byteAnswer 3#8] [3#8] ∧ (rdState 0#8 8#4 [byteAnswer 3#8, eos]).rd.rflt = false := ⟨rfl, rfl, rfl⟩

theorem test_meets_WrbytesAppendsTheBytes :
    (wrState 0#8 0#4 [goodAnswer, zero]).wr.answers = [goodAnswer] ++ [zero] ∧ AllAccepted [goodAnswer] ∧
      [goodAnswer].length = [0xFB#8].length ∧ (wrState 0#8 0#4 [goodAnswer, zero]).wr.woff = 0#4 := by
  unfold AllAccepted
  decide

/-- Fields of 3, 0 and 128 bits. -/
theorem test_meets_FieldsComeBackFromTheSink :
    (∀ f ∈ [(5#128, 3), (9#128, 0), (1#128, 128)], f.2 ≤ 128) ∧
      ([(5#128, 3), (9#128, 0), (1#128, 128)].map Prod.snd).sum / 8 + 2 ≤ 18 := by decide

end Sys2Proof.Tests
end

section
/-! The state right after reset (spec/10_state.md rule R40, spec/70_reset_and_hazards.md rule R210). -/

namespace Sys2Proof.Machine

/-- An idle BR neither answers its host nor asks its source (R80, R53). -/
theorem brValids_low_of_idle {s : State} (h : s.rd.phase = .idle) : rRspValid s = false ∧ sReqValid s = false := by
  simp [rRspValid, sReqValid, h, BrPhase.isResponding, BrPhase.isRequesting]

/-- An idle BW neither answers its host nor asks its sink (R81, R58). -/
theorem bwValids_low_of_idle {s : State} (h : s.wr.phase = .idle) : wRspValid s = false ∧ kReqValid s = false := by
  simp [wRspValid, kReqValid, h, BwPhase.isResponding, BwPhase.isRequesting]

@[simp] theorem reset_rd_phase : State.reset.rd.phase = .idle := rfl
@[simp] theorem reset_wr_phase : State.reset.wr.phase = .idle := rfl

/-- Settles O6: the registers are the fields of the reset state, and the VALIDs are low because both engines are
idle. -/
theorem registersAfterReset : Obligations.RegistersAfterReset := by
  obtain ⟨rRspLow, sReqLow⟩ := brValids_low_of_idle reset_rd_phase
  obtain ⟨wRspLow, kReqLow⟩ := bwValids_low_of_idle reset_wr_phase
  exact ⟨rfl, rfl, rfl, rfl, rfl, rfl, reset_rd_phase, reset_wr_phase, rRspLow, wRspLow, sReqLow, kReqLow⟩

end Sys2Proof.Machine
end

section
/-! The opcode map read through the fields OPC and CNT, and the decoders against it (spec/30_encoding.md rules R84, R85,
R88, R89). -/

namespace Sys2Proof

/-! ### The fields of a masked word -/

/-- A word is given by its two fields (R84). -/
theorem word_eq_iff_fields {w v : CmdWord} : w = v ↔ opcField w = opcField v ∧ cntField w = cntField v := by
  constructor
  · rintro rfl
    exact ⟨rfl, rfl⟩
  · rintro ⟨hopc, hcnt⟩
    rw [← opcField_append_cntField w, hopc, hcnt, opcField_append_cntField]

@[simp] theorem opcField_and (w m : CmdWord) : opcField (w &&& m) = opcField w &&& opcField m :=
  BitVec.extractLsb'_and

@[simp] theorem cntField_and (w m : CmdWord) : cntField (w &&& m) = cntField w &&& cntField m :=
  BitVec.extractLsb'_and

/-- `opcodeOf` reads the column OPC of R88 backwards. -/
theorem opcodeOf_eq_some_iff {n : BitVec 8} {o : Opcode} : opcodeOf n = some o ↔ n = o.number := by
  constructor
  · intro h
    unfold opcodeOf at h
    split_ifs at h <;> cases h <;> assumption
  · rintro rfl
    exact opcodeOf_number o

/-! ### The rows of the map, by opcode -/

/-- The nine opcodes in the order of R88. -/
def Opcode.all : List Opcode := [.rdbit, .rdbits, .rdbyte, .wrbit, .wrbits, .wrbyte, .pad, .fpad, .flush]

/-- Each opcode stands once in `Opcode.all`. -/
theorem Opcode.filter_all_eq_toList (x : Option Opcode) : all.filter (fun o => decide (x = some o)) = x.toList := by
  cases x with
  | none => rfl
  | some o => cases o <;> rfl

/-- The mnemonic of an opcode (R88). -/
def Opcode.mnemonic : Opcode → String
  | .rdbit => "RDBIT"
  | .rdbits => "RDBITS"
  | .rdbyte => "RDBYTE"
  | .wrbit => "WRBIT"
  | .wrbits => "WRBITS"
  | .wrbyte => "WRBYTE"
  | .pad => "PAD"
  | .fpad => "FPAD"
  | .flush => "FLUSH"

/-- Format FC: CNT is an operand; in format F0 it must be 0 (R85). -/
def Opcode.takesCount : Opcode → Bool
  | .rdbits => true
  | .wrbits => true
  | _ => false

/-- The row of an opcode: the match is its word with CNT = 0, the mask leaves a count out. -/
def Opcode.row (o : Opcode) : OpcodeRow :=
  ⟨o.mnemonic, o.port, cmdWord o 0, if o.takesCount then 0xFF00#16 else 0xFFFF#16⟩

@[simp] theorem Opcode.row_port (o : Opcode) : o.row.port = o.port := rfl

@[simp] theorem Opcode.row_pattern (o : Opcode) : o.row.pattern = cmdWord o 0 := rfl

theorem opcodeMap_eq_map_row : opcodeMap = Opcode.all.map Opcode.row := by decide

/-- A word of the opcode `o` with the count `cnt` is legal on the port `p` (R89). -/
def Opcode.legalOn (p : Port) (cnt : BitVec 8) (o : Opcode) : Bool := o.port == p && (o.takesCount || cnt == 0#8)

/-- The mask rule of R88 says: OPC is the row's, and CNT is 0 unless it is an operand. -/
theorem row_selects_iff (o : Opcode) (w : CmdWord) :
    o.row.selects w = true ↔ opcodeOf (opcField w) = some o ∧ (o.takesCount = true ∨ cntField w = 0#8) := by
  have hopc : opcField o.row.mask = BitVec.allOnes 8 := by cases o <;> decide
  have hcnt : cntField o.row.mask = if o.takesCount then 0#8 else BitVec.allOnes 8 := by cases o <;> decide
  rw [opcodeOf_eq_some_iff, OpcodeRow.selects, beq_iff_eq, word_eq_iff_fields, opcField_and, cntField_and, hopc, hcnt,
    Opcode.row_pattern, BitVec.and_allOnes]
  cases o.takesCount with
  | false => simp [-BitVec.reduceAllOnes]
  | true => simp

/-- The rows of one port never overlap (R88): the one opcode a word can select on it is the one OPC stands for. -/
theorem filter_selected_rows (p : Port) (w : CmdWord) :
    Opcode.all.filter (fun o => o.row.port == p && o.row.selects w) =
      ((opcodeOf (opcField w)).filter (Opcode.legalOn p (cntField w))).toList := by
  have hsel : ∀ o : Opcode, (o.row.port == p && o.row.selects w) =
      (o.legalOn p (cntField w) && decide (opcodeOf (opcField w) = some o)) := by
    intro o
    rw [Bool.eq_iff_iff]
    simp only [Opcode.legalOn, Opcode.row_port, row_selects_iff, Bool.and_eq_true, Bool.or_eq_true, beq_iff_eq,
      decide_eq_true_eq]
    tauto
  simp only [hsel]
  rw [← List.filter_filter, Opcode.filter_all_eq_toList, Option.toList_filter]

/-! ### The decoders against the map -/

@[simp] theorem Decoded.command?_command (i : Instr) : (Decoded.command i).command? = some i := rfl

@[simp] theorem Decoded.command?_illegal (why : Illegal) : (Decoded.illegal why).command? = none := rfl

/-- Each port decodes the opcodes legal on it, by their mnemonics (R88, R89). -/
theorem decodeOn_mnemonic (p : Port) (w : CmdWord) (val : Value) :
    (decodeOn p w val).command?.map Instr.mnemonic =
      ((opcodeOf (opcField w)).filter (Opcode.legalOn p (cntField w))).map Opcode.mnemonic := by
  cases p <;> simp only [decodeOn, decodeBR, decodeBW]
  all_goals
    cases opcodeOf (opcField w) with
    | none => rfl
    | some o =>
      by_cases hcnt : cntField w = 0#8 <;> cases o <;>
        simp [formatF0, hcnt, Opcode.legalOn, Opcode.port, Opcode.takesCount, Opcode.mnemonic, Instr.mnemonic]

/-- Settles O4: the rows a word selects and the command a port decodes are both read off OPC's opcode, where it is
legal on the port. -/
theorem commandIsTheOneRowItsWordSelects : Obligations.CommandIsTheOneRowItsWordSelects := by
  intro p w val
  have hmap : opcodeMap.filter (fun row => row.port == p && row.selects w) =
      (Opcode.all.filter fun o => o.row.port == p && o.row.selects w).map Opcode.row := by
    rw [opcodeMap_eq_map_row, List.filter_map]
    rfl
  rw [hmap, filter_selected_rows, decodeOn_mnemonic, List.map_map, Option.toList_map]
  rfl

end Sys2Proof
end

section
/-! What reading does to the lookahead, bit by bit (spec/40_reader.md rules R111 to R120). -/

namespace Sys2Proof.Machine

/-! ### One READBIT -/

/-- EXTRACT's shift of CUR lets a 0 in (R112). -/
@[simp] theorem shiftInBit_false {w : Nat} (x : BitVec w) : shiftInBit w x false = x <<< 1 := by
  simp [shiftInBit]

theorem toNat_lt_eight_of_ne {o : Offset} (hle : o.toNat ≤ 8) (hne : o ≠ 8#4) : o.toNat < 8 := by
  bv_omega

/-- Counting a bit does not wrap inside the lookahead (R112). -/
theorem toNat_offset_succ {o : Offset} (h : o.toNat < 8) : (o + 1#4).toNat = o.toNat + 1 := by
  bv_omega

/-- Settles O26, by the outcomes of READBIT. -/
theorem readBitRefillsOnlyWhenExhausted : Obligations.ReadBitRefillsOnlyWhenExhausted := by
  constructor
  · intro r r' e h
    obtain ⟨-, hr⟩ | ⟨-, -, hr⟩ | ⟨a, rest, b, -, -, -, hr⟩ | ⟨a, rest, e', hroff, hans, -, hr⟩ :=
      readBit_cases r
    all_goals rw [hr] at h; cases h
    exact ⟨hroff, a, hans, rfl⟩
  · intro r r' b hle h
    obtain ⟨hne, hr⟩ | ⟨-, -, hr⟩ | ⟨a, rest, x, hroff, hans, hx, hr⟩ | ⟨a, rest, e', -, -, -, hr⟩ :=
      readBit_cases r
    all_goals rw [hr] at h; cases h
    · have hlt := toNat_lt_eight_of_ne hle hne
      rw [toNat_offset_succ hlt]
      exact ⟨by omega, by omega, fun _ => ⟨rfl, rfl, rfl, rfl, shiftInBit_false _, rfl⟩,
        fun h8 => absurd h8 hne⟩
    · exact ⟨(by decide : 1 ≤ (1#4).toNat), (by decide : (1#4).toNat ≤ 8), fun hne => absurd hroff hne,
        fun _ => ⟨rfl, rfl, a, x, hans, hx, rfl, rfl, shiftInBit_false _⟩⟩

end Sys2Proof.Machine
end

section
/-! Bit strings: what ACC collects, and how the bits of a byte leave CUR (spec/20_memory.md rules R60, R61,
spec/40_reader.md rules R112, R117). -/

namespace Sys2Proof.Machine

/-! ### Bit strings as numbers -/

@[simp] theorem bitsValue_append_singleton (q : List Bool) (b : Bool) :
    bitsValue (q ++ [b]) = 2 * bitsValue q + b.toNat := by
  simp [bitsValue]

theorem bitsValue_lt (q : List Bool) : bitsValue q < 2 ^ q.length := by
  induction q using List.reverseRecOn with
  | nil => simp [bitsValue]
  | append_singleton q b ih =>
    have := Bool.toNat_lt b
    rw [bitsValue_append_singleton, List.length_append, List.length_singleton, Nat.pow_succ]
    omega

/-- A register that starts at 0 collects the value of the bits shifted into it, as far as it is wide (R117). -/
theorem toNat_foldl_shiftInBit {w : Nat} (hw : 0 < w) (q : List Bool) :
    (q.foldl (shiftInBit w) 0#w).toNat = bitsValue q % 2 ^ w := by
  induction q using List.reverseRecOn with
  | nil => simp [bitsValue]
  | append_singleton q b ih =>
    rw [List.foldl_append, List.foldl_cons, List.foldl_nil, toNat_shiftInBit w _ b hw, ih, bitsValue_append_singleton,
      Nat.add_mod, Nat.mul_mod_mod, ← Nat.add_mod]

theorem toNat_foldl_shiftInBit_acc {q : List Bool} (hq : q.length ≤ 128) :
    (q.foldl (shiftInBit 128) 0#128).toNat = bitsValue q := by
  rw [toNat_foldl_shiftInBit (by decide), Nat.mod_eq_of_lt]
  exact (bitsValue_lt q).trans_le (Nat.pow_le_pow_right (by decide) hq)

/-! ### The bits of a byte -/

@[simp] theorem length_msbBits (n v : Nat) : (msbBits n v).length = n := by
  induction n with
  | zero => rfl
  | succ n ih => simp [msbBits, ih]

/-- The low `n` bits of a number do not see the bits above them. -/
theorem msbBits_mod {m n : Nat} (h : n ≤ m) (v : Nat) : msbBits n (v % 2 ^ m) = msbBits n v := by
  induction n with
  | zero => rfl
  | succ n ih =>
    have hlt : n < m := h
    rw [msbBits, msbBits, ih hlt.le, Nat.testBit_mod_two_pow, decide_eq_true hlt, Bool.true_and]

theorem msbBits_two_mul (n v : Nat) : msbBits (n + 1) (2 * v) = msbBits n v ++ [false] := by
  induction n with
  | zero => simp [msbBits]
  | succ n ih => rw [msbBits, ih, msbBits, Nat.testBit_succ, Nat.mul_div_cancel_left v (by decide), List.cons_append]

/-- The bits of CUR after EXTRACT: the first is gone (R112). -/
theorem msbBits_shiftLeft_one (c : Byte) : msbBits 8 (c <<< 1).toNat = msbBits 7 c.toNat ++ [false] := by
  rw [BitVec.toNat_shiftLeft, Nat.shiftLeft_eq, Nat.mul_comm, pow_one, msbBits_mod le_rfl, msbBits_two_mul]

@[simp] theorem streamBits_nil : streamBits [] = [] := rfl

theorem streamBits_append (bs bs' : List Byte) : streamBits (bs ++ bs') = streamBits bs ++ streamBits bs' :=
  List.flatMap_append

theorem streamBits_singleton (b : Byte) : streamBits [b] = msbBits 8 b.toNat := by
  simp [streamBits]

/-! ### The unread bits of CUR -/

theorem unread_of_exhausted {r : ReadSide} (h : r.roff = 8#4) : r.unread = [] := by
  simp [ReadSide.unread, h]

theorem unread_of_fresh {r : ReadSide} (h : r.roff = 0#4) : r.unread = msbBits 8 r.cur.toNat := by
  simp [ReadSide.unread, h, List.take_of_length_le]

end Sys2Proof.Machine
end

section
/-! The loop of RDBITS and RDBYTE as a walk along the stream (spec/40_reader.md rules R116 to R120). -/

namespace Sys2Proof.Machine

/-! ### What a walk along the stream leaves -/

/-- BR goes from `r` to `r'` by reading the bits `q`, the source handing out the bytes `bs` for them. -/
structure ReadSide.Walk (r : ReadSide) (q : List Bool) (bs : List Byte) (r' : ReadSide) : Prop where
  /-- No bit is lost or made up (R61, R118). -/
  bits : r.unread ++ streamBits bs = q ++ r'.unread
  position : r'.roff.toNat + 8 * bs.length = r.roff.toNat + q.length
  cur_of_none : bs = [] → r'.cur = r.cur <<< q.length
  cur_of_last : ∀ b, bs.getLast? = some b → r'.cur = b <<< r'.roff.toNat
  acc : r'.acc = q.foldl (shiftInBit 128) r.acc
  fetches : r'.fetches = r.fetches + bs.length
  answers : r'.answers = r.answers.drop bs.length
  taken : r'.taken = r.taken ++ bs
  rflt : r'.rflt = r.rflt
  responses : r'.responses = r.responses

theorem ReadSide.Walk.refl (r : ReadSide) : r.Walk [] [] r := by
  constructor <;> simp

theorem ReadSide.Walk.trans {r r' r'' : ReadSide} {q q' : List Bool} {bs bs' : List Byte} (h : r.Walk q bs r')
    (h' : r'.Walk q' bs' r'') : r.Walk (q ++ q') (bs ++ bs') r'' where
  bits := by rw [streamBits_append, ← List.append_assoc, h.bits, List.append_assoc, h'.bits, List.append_assoc]
  position := by
    have := h.position
    have := h'.position
    simp only [List.length_append]
    omega
  cur_of_none hbs := by
    obtain ⟨hnil, hnil'⟩ := List.append_eq_nil_iff.mp hbs
    rw [h'.cur_of_none hnil', h.cur_of_none hnil, ← BitVec.shiftLeft_add, List.length_append]
  cur_of_last b hb := by
    cases hbs' : bs'.getLast? with
    | some b' =>
      rw [List.getLast?_append, hbs', Option.some_or] at hb
      cases hb
      exact h'.cur_of_last b hbs'
    | none =>
      obtain rfl := List.getLast?_eq_none_iff.mp hbs'
      have hpos : r''.roff.toNat = r'.roff.toNat + q'.length := h'.position
      rw [List.append_nil] at hb
      rw [h'.cur_of_none rfl, h.cur_of_last b hb, ← BitVec.shiftLeft_add, hpos]
  acc := by rw [h'.acc, h.acc, List.foldl_append]
  fetches := by rw [h'.fetches, h.fetches, List.length_append, Nat.add_assoc]
  answers := by rw [h'.answers, h.answers, List.drop_drop, List.length_append]
  taken := by rw [h'.taken, h.taken, List.append_assoc]
  rflt := h'.rflt.trans h.rflt
  responses := h'.responses.trans h.responses

/-- The bits read are the next ones of the stream (R118). -/
theorem ReadSide.Walk.take_eq {r r' : ReadSide} {q : List Bool} {bs : List Byte} (h : r.Walk q bs r') :
    (r.unread ++ streamBits bs).take q.length = q := by
  rw [h.bits, List.take_left]

/-! ### The two moves of the loop -/

/-- REFILL with the byte `b` (R111). -/
def ReadSide.loaded (b : Byte) (r : ReadSide) : ReadSide :=
  { r with cur := b, roff := 0#4, fetches := r.fetches + 1, answers := r.answers.tail, taken := r.taken ++ [b] }

/-- EXTRACT of one bit into ACC (R112, R116). -/
def ReadSide.shifted (r : ReadSide) : ReadSide :=
  { r with
    cur := r.cur <<< 1, roff := r.roff + 1#4, acc := shiftInBit 128 r.acc r.cur.msb, bcnt := r.bcnt - 1#8 }

theorem walk_loaded {r : ReadSide} (b : Byte) (h : r.roff = 8#4) : r.Walk [] [b] (r.loaded b) := by
  constructor <;> simp [unread_of_exhausted h, unread_of_fresh, streamBits_singleton, ReadSide.loaded, h]

theorem unread_of_lookahead {r : ReadSide} (h : r.roff.toNat < 8) : r.unread = r.cur.msb :: r.shifted.unread := by
  obtain ⟨k, hk⟩ : ∃ k, 8 - r.roff.toNat = k + 1 := ⟨7 - r.roff.toNat, by omega⟩
  have hk' : 8 - r.shifted.roff.toNat = k := by
    rw [ReadSide.shifted, toNat_offset_succ h]
    omega
  have hmsb : r.cur.toNat.testBit 7 = r.cur.msb := r.cur.msb_eq_getLsbD_last.symm
  have hlen : k ≤ (msbBits 7 r.cur.toNat).length := by
    rw [length_msbBits]
    omega
  rw [ReadSide.unread, ReadSide.unread, hk, hk', ReadSide.shifted, msbBits_shiftLeft_one,
    List.take_append_of_le_length hlen, msbBits, List.take_succ_cons, hmsb]

theorem walk_shifted {r : ReadSide} (h : r.roff.toNat < 8) : r.Walk [r.cur.msb] [] r.shifted := by
  constructor <;> simp [unread_of_lookahead h, ReadSide.shifted, toNat_offset_succ h]

theorem readLoop_succ_of_lookahead (k : Nat) {r : ReadSide} (h : r.roff ≠ 8#4) :
    readLoop (k + 1) r = readLoop k r.shifted := by
  rw [readLoop_succ, readBit_lookahead h, extract, Micro.bind_ok, shiftInBit_false, ReadSide.shifted]

theorem readLoop_succ_of_refill (k : Nat) {r : ReadSide} {a : SrcAnswer} {rest : List SrcAnswer} {b : Byte}
    (h : r.roff = 8#4) (ha : r.answers = a :: rest) (hb : srcReply a = .byte b) :
    readLoop (k + 1) r = readLoop (k + 1) (r.loaded b) := by
  have hfresh : (r.loaded b).roff ≠ 8#4 := by simp [ReadSide.loaded]
  rw [readLoop_succ, readLoop_succ, readBit_lookahead hfresh, readBit_refill h ha]
  simp [refillAnswered, hb, ReadSide.loaded, ha]

/-! ### The loop -/

theorem AnswerBytes.length_eq {as : List SrcAnswer} {bs : List Byte} (h : AnswerBytes as bs) :
    as.length = bs.length := by
  simpa using congrArg List.length h

theorem answerBytes_cons_iff {as : List SrcAnswer} {b : Byte} {bs : List Byte} :
    AnswerBytes as (b :: bs) ↔ ∃ a as', as = a :: as' ∧ srcReply a = .byte b ∧ AnswerBytes as' bs :=
  List.map_eq_cons_iff

/-- The loop of `n` turns ends well from `r`, the source handing out `bs`. -/
def ReadSide.LoopReads (r : ReadSide) (n : Nat) (bs : List Byte) : Prop :=
  ∃ q r', readLoop n r = .ok () r' ∧ q.length = n ∧ r.Walk q bs r'

theorem ReadSide.LoopReads.of_shifted {r : ReadSide} {n : Nat} {bs : List Byte} (hlt : r.roff.toNat < 8)
    (h : r.shifted.LoopReads n bs) : r.LoopReads (n + 1) bs := by
  obtain ⟨q, r', hrun, hq, hwalk⟩ := h
  have hne : r.roff ≠ 8#4 := by bv_omega
  exact ⟨r.cur.msb :: q, r', (readLoop_succ_of_lookahead n hne).trans hrun, congrArg (· + 1) hq,
    (walk_shifted hlt).trans hwalk⟩

theorem ReadSide.LoopReads.of_loaded {r : ReadSide} {n : Nat} {a : SrcAnswer} {rest : List SrcAnswer} {b : Byte}
    {bs : List Byte} (h8 : r.roff = 8#4) (hans : r.answers = a :: rest) (hb : srcReply a = .byte b)
    (h : (r.loaded b).LoopReads (n + 1) bs) : r.LoopReads (n + 1) (b :: bs) := by
  obtain ⟨q, r', hrun, hq, hwalk⟩ := h
  exact ⟨q, r', (readLoop_succ_of_refill n h8 hans hb).trans hrun, hq, (walk_loaded b h8).trans hwalk⟩

/-- The loop reads `n` bits where the source hands out the bytes they need beyond the lookahead, and no more
(R118). -/
theorem loopReads_of_answerBytes (n : Nat) {r : ReadSide} {as rest : List SrcAnswer} {bs : List Byte}
    (hroff : r.roff.toNat ≤ 8) (hans : r.answers = as ++ rest) (hbs : AnswerBytes as bs)
    (hlen : bs.length = (n - (8 - r.roff.toNat) + 7) / 8) : r.LoopReads n bs := by
  induction n generalizing r as bs with
  | zero =>
    obtain rfl : bs = [] := List.length_eq_zero_iff.mp (by omega)
    exact ⟨[], r, rfl, rfl, .refl r⟩
  | succ n ih =>
    by_cases h8 : r.roff = 8#4
    · have hroff8 : r.roff.toNat = 8 := by rw [h8]; rfl
      obtain ⟨b, bs, rfl⟩ := List.exists_cons_of_length_pos (l := bs) (by omega)
      obtain ⟨a, as, rfl, ha, hbs⟩ := answerBytes_cons_iff.mp hbs
      have hans' : (r.loaded b).shifted.answers = as ++ rest := congrArg List.tail hans
      have hroff1 : (r.loaded b).shifted.roff.toNat = 1 := rfl
      rw [List.length_cons] at hlen
      exact .of_loaded h8 hans ha (.of_shifted (by decide : (0#4).toNat < 8) (ih (by omega) hans' hbs (by omega)))
    · have hlt := toNat_lt_eight_of_ne hroff h8
      have hroff1 : r.shifted.roff.toNat = r.roff.toNat + 1 := toNat_offset_succ hlt
      exact .of_shifted hlt (ih (by omega) hans hbs (by omega))

/-- Whatever the source hands out, ACC collects one bit a turn (R117). -/
theorem readLoop_acc {k : Nat} {r r' : ReadSide} (h : readLoop k r = .ok () r') :
    ∃ q : List Bool, q.length = k ∧ r'.acc = q.foldl (shiftInBit 128) r.acc := by
  induction k generalizing r with
  | zero =>
    cases h
    exact ⟨[], rfl, rfl⟩
  | succ k ih =>
    rw [readLoop_succ] at h
    obtain ⟨-, hr⟩ | ⟨-, -, hr⟩ | ⟨a, rest, b, -, -, -, hr⟩ | ⟨a, rest, e, -, -, -, hr⟩ :=
      readBit_cases r
    all_goals rw [hr] at h
    · obtain ⟨q, hq, hacc⟩ := ih h
      exact ⟨r.cur.msb :: q, by simp [hq], hacc⟩
    · cases h
    · obtain ⟨q, hq, hacc⟩ := ih h
      exact ⟨b.msb :: q, by simp [hq], hacc⟩
    · cases h

/-! ### RDBITS -/

/-- R116 on an unfaulted BR, for a width it accepts. -/
theorem rdbitsCommand_eq {r : ReadSide} {n : Nat} (hflt : r.rflt = false) (hn : n ≤ 128) :
    rdbitsCommand n r = brFinish .rdbits ((readLoop n { r with acc := 0#128, bcnt := countRegister n }).bind
      fun _ r' => .ok r'.acc r') := by
  have hwidth : tooWide n = false := by simpa [tooWide] using hn
  rw [rdbitsCommand, brFrame_unfaulted hflt, hwidth, if_neg Bool.false_ne_true, brRun, brRest,
    toNat_countRegister (by omega)]
  rfl

/-- Settles O28: the loop is a walk of `n` bits from ACC = 0, and the three cases of CUR and ROFF are read off the
walk's position. -/
theorem rdbitsClosedForm : Obligations.RdbitsClosedForm := by
  intro s n as rest bs hflt hroff hn hn128 hans hbs hlen
  obtain ⟨q, r, hrun, rfl, hwalk⟩ :=
    loopReads_of_answerBytes n (r := { s.rd with acc := 0#128, bcnt := countRegister n }) hroff hans hbs hlen
  have hexec : exec (.rdbits q.length) s = .next { s with rd := brOk r.acc r } := by
    rw [exec_br rfl, readerEffect, rdbitsCommand_eq hflt hn128, hrun]
    rfl
  have hval : r.acc.toNat = bitsValue q := by rw [hwalk.acc, toNat_foldl_shiftInBit_acc hn128]
  have htake : (s.rd.unread ++ streamBits bs).take q.length = q := hwalk.take_eq
  have hpos : r.roff.toNat + 8 * bs.length = s.rd.roff.toNat + q.length := hwalk.position
  have hrest : r.answers = rest := by simp [hwalk.answers, hans, ← hbs.length_eq]
  refine ⟨_, hexec, ⟨r.acc, rfl, by rw [htake, hval], hval ▸ bitsValue_lt q⟩, hwalk.fetches, hrest, hwalk.taken,
    ?inside, ?aligned, ?within, hwalk.rflt.trans hflt, hwalk.responses, rfl, rfl⟩
  case inside =>
    intro hle
    have hnil : bs = [] := List.length_eq_zero_iff.mp (by omega)
    exact ⟨by simpa [hnil] using hpos, hwalk.cur_of_none hnil⟩
  case aligned =>
    intro hlt hmod
    have hroff8 : r.roff = 8#4 := BitVec.eq_of_toNat_eq (by simp only [BitVec.toNat_ofNat]; omega)
    obtain ⟨b, hb⟩ : ∃ b, bs.getLast? = some b :=
      ⟨_, List.getLast?_eq_some_getLast (List.ne_nil_of_length_pos (by omega))⟩
    refine ⟨hroff8, (hwalk.cur_of_last b hb).trans ?_⟩
    rw [hroff8]
    exact BitVec.shiftLeft_eq_zero le_rfl
  case within =>
    intro b hlt hmod hb
    have hroff' : r.roff.toNat = (q.length - (8 - s.rd.roff.toNat)) % 8 := by omega
    exact ⟨hroff', hroff' ▸ hwalk.cur_of_last b hb⟩

/-! ### RDBYTE -/

/-- R119 on an unfaulted BR. -/
theorem rdbyteCommand_eq {r : ReadSide} (hflt : r.rflt = false) :
    rdbyteCommand r = brFinish .rdbyte ((readLoop 8 { r with acc := 0#128, bcnt := countRegister 8 }).bind
      fun _ r' => .ok (byteResult r'.acc) r') := by
  rw [rdbyteCommand, brFrame_unfaulted hflt]
  rfl

/-- The byte RDBYTE answers with is all of ACC (R117, R119). -/
theorem byteResult_eq_self {acc : Value} (h : acc.toNat < 2 ^ 8) : byteResult acc = acc := by
  apply BitVec.eq_of_toNat_eq
  simp only [byteResult, BitVec.toNat_setWidth, BitVec.extractLsb'_toNat, Nat.shiftRight_zero]
  omega

/-- Eight bits read into ACC = 0 are a byte, in every state and with every source. -/
theorem readLoop_eight_byteResult {r : ReadSide} (hacc : r.acc = 0#128) :
    ((readLoop 8 r).bind fun _ r' => .ok (byteResult r'.acc) r') =
      (readLoop 8 r).bind fun _ r' => (.ok r'.acc r' : Micro Value ReadSide) := by
  cases hrun : readLoop 8 r with
  | ok u r' =>
    obtain ⟨q, hq, hacc'⟩ := readLoop_acc hrun
    have hlt : r'.acc.toNat < 2 ^ 8 := by
      rw [hacc', hacc, toNat_foldl_shiftInBit_acc (by omega), ← hq]
      exact bitsValue_lt q
    rw [Micro.bind_ok, Micro.bind_ok, byteResult_eq_self hlt]
  | blocked r' => rfl
  | raise e r' => rfl

/-- Which command stops shows only in the name it waits under. -/
theorem brFinish_eq_up_to_job (j j' : BrJob) (m : Micro Value ReadSide) :
    { brFinish j m with phase := .idle } = { brFinish j' m with phase := .idle } ∧
      (brFinish j m).phase.response = (brFinish j' m).phase.response := by
  cases m with
  | ok d r => exact ⟨rfl, rfl⟩
  | blocked r => exact ⟨rfl, rfl⟩
  | raise e r => exact ⟨rfl, rfl⟩

/-- R120 for BR alone. -/
theorem rdbyteCommand_eq_rdbits_eight (r : ReadSide) :
    { rdbyteCommand r with phase := .idle } = { rdbitsCommand 8 r with phase := .idle } ∧
      (rdbyteCommand r).phase.response = (rdbitsCommand 8 r).phase.response := by
  cases hflt : r.rflt with
  | true =>
    rw [rdbyteCommand, rdbitsCommand, brFrame_faulted hflt, brFrame_faulted hflt]
    exact ⟨rfl, rfl⟩
  | false =>
    rw [rdbyteCommand_eq hflt, rdbitsCommand_eq hflt (by decide), readLoop_eight_byteResult rfl]
    exact brFinish_eq_up_to_job _ _ _

/-- Settles O31: both are the same loop of eight turns, whose ACC is a byte. -/
theorem rdbyteIsRdbitsOfEight : Obligations.RdbyteIsRdbitsOfEight := by
  intro s t u ht hu
  cases ht
  cases hu
  obtain ⟨hstate, hresponse⟩ := rdbyteCommand_eq_rdbits_eight s.rd
  exact ⟨congrArg (fun r => { s with rd := r }) hstate, hresponse⟩

end Sys2Proof.Machine
end

section
/-! EMIT with each answer of the sink, and the commands that are at most one EMIT, WRBIT and FPAD (spec/41_writer.md rules
R140 to R145, R156). -/

namespace Sys2Proof.Machine

/-! ### EMIT, answer by answer -/

/-- EMIT has sent PEND, and the sink has answered it, with the answers `rest` still to come (R142). -/
def WriteSide.asked (rest : List SnkAnswer) (w : WriteSide) : WriteSide :=
  { w with requests := w.requests ++ [.write w.pend], answers := rest }

/-- What an accepted EMIT leaves (R142). -/
def WriteSide.emitted (rest : List SnkAnswer) (w : WriteSide) : WriteSide :=
  { w.asked rest with pend := 0#8, woff := 0#4, accepted := w.accepted ++ [w.pend] }

@[simp] theorem emitted_pend (rest : List SnkAnswer) (w : WriteSide) : (w.emitted rest).pend = 0#8 := rfl
@[simp] theorem emitted_woff (rest : List SnkAnswer) (w : WriteSide) : (w.emitted rest).woff = 0#4 := rfl
@[simp] theorem emitted_wval (rest : List SnkAnswer) (w : WriteSide) : (w.emitted rest).wval = w.wval := rfl
@[simp] theorem emitted_answers (rest : List SnkAnswer) (w : WriteSide) : (w.emitted rest).answers = rest := rfl
@[simp] theorem emitted_requests (rest : List SnkAnswer) (w : WriteSide) :
    (w.emitted rest).requests = w.requests ++ [.write w.pend] := rfl
@[simp] theorem emitted_accepted (rest : List SnkAnswer) (w : WriteSide) :
    (w.emitted rest).accepted = w.accepted ++ [w.pend] := rfl

theorem pendingInv_emitted (rest : List SnkAnswer) (w : WriteSide) : (w.emitted rest).pendingInv := by
  simp [WriteSide.pendingInv]

/-- The sink answers a WRITE with the error `e` (R56, R142). -/
def SnkAnswer.Fails (a : SnkAnswer) (e : Err) : Prop :=
  e = .zeroBytesWritten ∧ writeReply a = .zero ∨ ∃ c, e = .underlyingIOError c ∧ writeReply a = .ioerr c

/-- A stream error of the sink latches (R188). -/
theorem SnkAnswer.Fails.latches {a : SnkAnswer} {e : Err} (h : a.Fails e) : e.latches = true := by
  obtain ⟨rfl, -⟩ | ⟨c, rfl, -⟩ := h <;> rfl

theorem emit_of_accepted {w : WriteSide} {a : SnkAnswer} {rest : List SnkAnswer} (ha : w.answers = a :: rest)
    (hr : writeReply a = .accepted) : emit w = .ok () (w.emitted rest) := by
  simp [emit, ha, emitAnswered, hr, WriteSide.emitted, WriteSide.asked]

theorem emit_of_fails {w : WriteSide} {a : SnkAnswer} {rest : List SnkAnswer} {e : Err} (ha : w.answers = a :: rest)
    (he : a.Fails e) : emit w = .raise e (w.asked rest) := by
  obtain ⟨rfl, hr⟩ | ⟨c, rfl, hr⟩ := he <;> simp [emit, ha, emitAnswered, hr, WriteSide.asked]

/-- A command whose last act is an accepted EMIT answers OK. -/
theorem bwFinish_emit_of_accepted (j : BwJob) {w : WriteSide} {a : SnkAnswer} {rest : List SnkAnswer}
    (ha : w.answers = a :: rest) (hr : writeReply a = .accepted) :
    bwFinish j (emit w) = bwOk (w.emitted rest) := by
  rw [emit_of_accepted ha hr, bwFinish]

/-- A command whose last act is a failing EMIT ends with the error of the answer. -/
theorem bwFinish_emit_of_fails (j : BwJob) {w : WriteSide} {a : SnkAnswer} {rest : List SnkAnswer} {e : Err}
    (ha : w.answers = a :: rest) (he : a.Fails e) : bwFinish j (emit w) = bwRaise e (w.asked rest) := by
  rw [emit_of_fails ha he, bwFinish]

/-- Whatever the answer, EMIT makes one WRITE request (R142). -/
theorem bwFinish_emit_requests (j : BwJob) {w : WriteSide} {a : SnkAnswer} {rest : List SnkAnswer}
    (ha : w.answers = a :: rest) : (bwFinish j (emit w)).requests = w.requests ++ [.write w.pend] := by
  obtain ⟨hnil, -⟩ | ⟨a', rest', -, -, hrun⟩ | ⟨a', rest', e, -, -, hrun⟩ := emit_cases w
  · simp [ha] at hnil
  all_goals rw [hrun]; rfl

/-! ### WRBIT -/

/-- The byte SHIFTIN makes of PEND and W_VAL[0] (R86, R141). -/
theorem shiftInBit_bitOperand (x : Byte) (val : Value) :
    shiftInBit 8 x (bitOperand val) = x.extractLsb' 0 7 ++ val.extractLsb' 0 1 := by
  have hbit : BitVec.ofBool (bitOperand val) = val.extractLsb' 0 1 := by
    ext i hi
    obtain rfl : i = 0 := by omega
    simp [bitOperand, valueBit]
  rw [shiftInBit_eq_append, hbit]

/-- BW latches the value operand (R145, R147, R150). -/
def WriteSide.latched (val : Value) (w : WriteSide) : WriteSide := { w with wval := val }

/-- R145 on an unfaulted BW. -/
theorem exec_wrbit {s : State} (val : Value) (hflt : s.wr.wflt = false) :
    exec (.wrbit val) s = .next { s with
      wr := bwFinish .wrbit (shiftIn (bitOperand val) (s.wr.latched val)) } := by
  rw [exec_bw rfl, writerEffect, wrbitCommand, bwFrame_unfaulted hflt]
  rfl

/-- Settles O37: below WOFF = 7 SHIFTIN only moves the bit in; at 7 it is an EMIT, answered or failed. -/
theorem wrbitShiftsInOneBit : Obligations.WrbitShiftsInOneBit := by
  intro s val hflt
  rw [exec_wrbit val hflt, ← shiftInBit_bitOperand]
  constructor
  · intro hle
    have hne : s.wr.woff + 1#4 ≠ 8#4 := by bv_omega
    rw [shiftIn_partial (w := s.wr.latched val) _ hne]
    rfl
  · intro a rest h7 ha
    have hfull : s.wr.woff + 1#4 = 8#4 := by rw [h7]; rfl
    rw [shiftIn_full (w := s.wr.latched val) _ hfull]
    constructor
    · intro hr
      rw [bwFinish_emit_of_accepted .wrbit (w := { s.wr.latched val with pend := _, woff := _ }) ha hr]
      rfl
    · intro e (he : a.Fails e)
      rw [bwFinish_emit_of_fails .wrbit (w := { s.wr.latched val with pend := _, woff := _ }) ha he]
      exact ⟨_, rfl, rfl, by simp [he.latches], rfl, rfl, rfl⟩

/-! ### FPAD -/

/-- R156 on an unfaulted BW. -/
theorem exec_fpad {s : State} (hflt : s.wr.wflt = false) :
    exec .fpad s = .next { s with wr := bwFinish .fpad (emit s.wr) } := by
  rw [exec_bw rfl, writerEffect, fpadCommand, bwFrame_unfaulted hflt]

/-- A byte-aligned BW has nothing pending (R35). -/
theorem WriteSide.pendingInv.pend_eq_zero {w : WriteSide} (h : w.pendingInv) (h0 : w.woff = 0#4) : w.pend = 0#8 := by
  obtain ⟨-, hpend⟩ := h
  have hlt : w.pend.toNat < 1 := by simpa [h0] using hpend
  bv_omega

/-- Settles O44: FPAD is one EMIT, and of an aligned BW an EMIT of PEND = 0. -/
theorem fpadEmitsThePendingByte : Obligations.FpadEmitsThePendingByte := by
  intro s a rest hflt ha
  rw [exec_fpad hflt]
  refine ⟨?accepted, ?fails, ?aligned⟩
  case accepted =>
    intro hr
    rw [bwFinish_emit_of_accepted .fpad ha hr]
    rfl
  case fails =>
    intro e (he : a.Fails e)
    rw [bwFinish_emit_of_fails .fpad ha he]
    exact ⟨_, rfl, rfl, by simp [he.latches], rfl, rfl, rfl⟩
  case aligned =>
    intro hinv h0
    exact ⟨_, rfl, by rw [bwFinish_emit_requests .fpad ha, hinv.pend_eq_zero h0]⟩

end Sys2Proof.Machine
end

section
/-! PAD: zero bits to the end of the byte, and then one EMIT (spec/41_writer.md rules R153 to R155). -/

namespace Sys2Proof.Machine

@[simp] theorem Micro.bind_ok_right {σ : Type} (m : Micro Unit σ) : (m.bind fun _ s => .ok () s) = m := by
  cases m <;> rfl

/-- The state in which PAD's last SHIFTIN emits: zero bits stand below the pending ones. -/
def WriteSide.padded (w : WriteSide) : WriteSide :=
  { w with pend := w.pend <<< (8 - w.woff.toNat), woff := 8#4, widx := 0#8 }

/-- A turn that completes no byte moves a zero bit in. -/
theorem padLoop_succ_of_partial (k : Nat) {w : WriteSide} (h : w.woff + 1#4 ≠ 8#4) :
    padLoop (k + 1) w =
      padLoop k { w with pend := w.pend <<< 1, woff := w.woff + 1#4, widx := countRegister k } := by
  rw [padLoop_succ, shiftIn_partial (w := { w with widx := countRegister k }) _ h, Micro.bind_ok, shiftInBit_false]

/-- The turn that completes the byte is the last, and emits it. -/
theorem padLoop_one_of_full {w : WriteSide} (h : w.woff = 7#4) : padLoop 1 w = emit w.padded := by
  have hfull : w.woff + 1#4 = 8#4 := by rw [h]; rfl
  rw [padLoop_succ, shiftIn_full (w := { w with widx := countRegister 0 }) _ hfull, shiftInBit_false,
    WriteSide.padded, h]
  exact Micro.bind_ok_right _

/-- The loop of PAD that completes the byte is one EMIT of it (R153). -/
theorem padLoop_eq_emit {k : Nat} {w : WriteSide} (h : w.woff.toNat + (k + 1) = 8) :
    padLoop (k + 1) w = emit w.padded := by
  induction k generalizing w with
  | zero => exact padLoop_one_of_full (by bv_omega)
  | succ k ih =>
    have hne : w.woff + 1#4 ≠ 8#4 := by bv_omega
    have hoff : (w.woff + 1#4).toNat = w.woff.toNat + 1 := toNat_offset_succ (by omega)
    have hpad : 1 + (8 - (w.woff.toNat + 1)) = 8 - w.woff.toNat := by omega
    rw [padLoop_succ_of_partial _ hne, ih (by simp only [hoff]; omega)]
    simp only [WriteSide.padded, hoff, ← BitVec.shiftLeft_add, hpad]

/-- PAD and the first half of FLUSH on a partial byte (R153, R159). -/
theorem padToByte_eq_emit {w : WriteSide} (hle : w.woff.toNat ≤ 7) (hne : w.woff ≠ 0#4) :
    padToByte w = emit w.padded := by
  have hcount : padCount w.woff = 7 - w.woff.toNat + 1 := by
    unfold padCount
    bv_omega
  rw [padToByte_partial hne, hcount, padLoop_eq_emit (by omega)]

/-- R153 on an unfaulted BW. -/
theorem exec_pad {s : State} (hflt : s.wr.wflt = false) :
    exec .pad s = .next { s with wr := bwFinish .pad (padToByte s.wr) } := by
  rw [exec_bw rfl, writerEffect, padCommand, bwFrame_unfaulted hflt]

/-- Settles O43: PAD is no operation on an aligned BW, and else the EMIT of the padded byte, answered or failed. -/
theorem padCompletesThePartialByte : Obligations.PadCompletesThePartialByte := by
  intro s hflt
  rw [exec_pad hflt]
  refine ⟨?aligned, ?accepted, ?fails⟩
  case aligned =>
    intro h0
    rw [padToByte_aligned h0]
    rfl
  case accepted =>
    rintro a rest ⟨hle, -⟩ hne ha hr
    rw [padToByte_eq_emit hle hne, bwFinish_emit_of_accepted .pad (w := s.wr.padded) ha hr]
    exact ⟨_, rfl, rfl, rfl, rfl, rfl, rfl, rfl, hflt, rfl, rfl, rfl, rfl, rfl⟩
  case fails =>
    rintro a rest e ⟨hle, -⟩ hne ha (he : a.Fails e)
    rw [padToByte_eq_emit hle hne, bwFinish_emit_of_fails .pad (w := s.wr.padded) ha he]
    exact ⟨_, rfl, rfl, by simp [he.latches], rfl, rfl, rfl, rfl⟩

end Sys2Proof.Machine
end

section
/-! The loop of WRBITS and WRBYTE, and the bytes it packs (spec/41_writer.md rules R147 to R151). -/

namespace Sys2Proof.Machine

/-! ### The bytes of a number -/

/-- The whole bytes of the `len`-bit number `x`, from the top; `len % 8` low bits are left over (R148). -/
def packedBytes (len x : Nat) : List Byte :=
  (List.range (len / 8)).map fun j => BitVec.ofNat 8 (x >>> (len % 8 + 8 * (len / 8 - 1 - j)))

theorem packedBytes_of_lt {len : Nat} (h : len < 8) (x : Nat) : packedBytes len x = [] := by
  rw [packedBytes, Nat.div_eq_of_lt h]
  rfl

/-- A byte of a number that ends below bit `k` does not see the bits from `k` up. -/
theorem ofNat_shiftRight_mod_two_pow {t k : Nat} (h : t + 8 ≤ k) (x : Nat) :
    BitVec.ofNat 8 ((x % 2 ^ k) >>> t) = BitVec.ofNat 8 (x >>> t) := by
  ext i hi
  have hlt : t + i < k := by omega
  simp [← BitVec.getLsbD_eq_getElem, BitVec.getLsbD_ofNat, Nat.testBit_mod_two_pow, hlt]

/-- The top byte, and then the bytes of the number below it. -/
theorem packedBytes_eight_add (k x : Nat) :
    packedBytes (8 + k) x = BitVec.ofNat 8 (x >>> k) :: packedBytes k (x % 2 ^ k) := by
  have hdiv : (8 + k) / 8 = k / 8 + 1 := by omega
  have hmod : (8 + k) % 8 = k % 8 := by omega
  have htop : k % 8 + 8 * (k / 8 + 1 - 1 - 0) = k := by omega
  rw [packedBytes, hdiv, hmod, List.range_succ_eq_map, List.map_cons, List.map_map, htop, packedBytes]
  congr 1
  refine List.map_congr_left fun j hj => ?_
  have hj := List.mem_range.mp hj
  have hshift : k / 8 + 1 - 1 - (j + 1) = k / 8 - 1 - j := by omega
  rw [Function.comp_apply, Nat.succ_eq_add_one, hshift, ofNat_shiftRight_mod_two_pow (by omega)]

/-! ### What the loop leaves -/

/-- `w'` is what packing the `len`-bit number `x` leaves of `w`, the sink accepting every byte (R148). -/
structure WriteSide.Packs (w : WriteSide) (len x : Nat) (w' : WriteSide) : Prop where
  requests : w'.requests = w.requests ++ (packedBytes len x).map .write
  accepted : w'.accepted = w.accepted ++ packedBytes len x
  answers : w'.answers = w.answers.drop (len / 8)
  woff : w'.woff.toNat = len % 8
  pend : w'.pend.toNat = x % 2 ^ (len % 8)
  wflt : w'.wflt = w.wflt
  wval : w'.wval = w.wval
  drained : w'.drained = w.drained
  responses : w'.responses = w.responses

/-- A turn of the loop before the byte it may complete is emitted: `WVAL[k]` moves in (R141, R147). -/
def WriteSide.shiftedIn (k : Nat) (w : WriteSide) : WriteSide :=
  { w with pend := shiftInBit 8 w.pend (valueBit w.wval k), woff := w.woff + 1#4, widx := countRegister k }

@[simp] theorem shiftedIn_wval (k : Nat) (w : WriteSide) : (w.shiftedIn k).wval = w.wval := rfl

theorem toNat_woff_shiftedIn {w : WriteSide} (h : w.pendingInv) (k : Nat) :
    (w.shiftedIn k).woff.toNat = w.woff.toNat + 1 :=
  have ⟨hle, _⟩ := h
  toNat_offset_succ (Nat.lt_succ_of_le hle)

theorem toNat_pend_shiftedIn {w : WriteSide} (h : w.pendingInv) (k : Nat) :
    (w.shiftedIn k).pend.toNat = 2 * w.pend.toNat + (valueBit w.wval k).toNat := by
  obtain ⟨hle, hpend⟩ := h
  have hpow : 2 ^ w.woff.toNat ≤ 2 ^ 7 := Nat.pow_le_pow_right (by decide) hle
  have hbit := Bool.toNat_lt (valueBit w.wval k)
  rw [WriteSide.shiftedIn, toNat_shiftInBit 8 _ _ (by decide), Nat.mod_eq_of_lt (by omega)]

theorem pendingInv_shiftedIn {w : WriteSide} (h : w.pendingInv) (hlt : w.woff.toNat < 7) (k : Nat) :
    (w.shiftedIn k).pendingInv := by
  have hbit := Bool.toNat_lt (valueBit w.wval k)
  have ⟨_, hpend⟩ := h
  rw [WriteSide.pendingInv, toNat_woff_shiftedIn h, toNat_pend_shiftedIn h, Nat.pow_succ]
  omega

/-- The number a loop packs is the same before and after a bit of it has moved into PEND. -/
theorem toNat_pend_shiftedIn_mul_add {w : WriteSide} (h : w.pendingInv) (k : Nat) :
    (w.shiftedIn k).pend.toNat * 2 ^ k + w.wval.toNat % 2 ^ k =
      w.pend.toNat * 2 ^ (k + 1) + w.wval.toNat % 2 ^ (k + 1) := by
  rw [toNat_pend_shiftedIn h, Nat.mod_pow_succ, ← Nat.toNat_testBit, BitVec.testBit_toNat, valueBit, Nat.pow_succ]
  ring

/-- A turn that completes no byte. -/
theorem writeLoop_succ_of_partial (k : Nat) {w : WriteSide} (h : w.woff + 1#4 ≠ 8#4) :
    writeLoop (k + 1) w = writeLoop k (w.shiftedIn k) := by
  rw [writeLoop_succ, shiftIn_partial (w := { w with widx := countRegister k }) _ h, Micro.bind_ok, WriteSide.shiftedIn]

/-- A turn that completes a byte, which the sink accepts. -/
theorem writeLoop_succ_of_accepted (k : Nat) {w : WriteSide} {a : SnkAnswer} {rest : List SnkAnswer}
    (h : w.woff + 1#4 = 8#4) (ha : w.answers = a :: rest) (hr : writeReply a = .accepted) :
    writeLoop (k + 1) w = writeLoop k ((w.shiftedIn k).emitted rest) := by
  have hemit : emit (w.shiftedIn k) = .ok () ((w.shiftedIn k).emitted rest) :=
    emit_of_accepted ha hr
  rw [WriteSide.shiftedIn, h] at hemit
  rw [writeLoop_succ, shiftIn_full (w := { w with widx := countRegister k }) _ h, hemit, Micro.bind_ok,
    WriteSide.shiftedIn, h]

theorem WriteSide.Packs.refl {w : WriteSide} (h : w.pendingInv) : w.Packs w.woff.toNat w.pend.toNat w := by
  obtain ⟨hle, hpend⟩ := h
  have hlt : w.woff.toNat < 8 := by omega
  have hmod : w.woff.toNat % 8 = w.woff.toNat := Nat.mod_eq_of_lt hlt
  constructor <;> simp [packedBytes_of_lt hlt, hmod, Nat.mod_eq_of_lt hpend, Nat.div_eq_of_lt hlt]

/-- A bit moved into PEND is no byte yet. -/
theorem WriteSide.Packs.of_shiftedIn {w w' : WriteSide} {k len x : Nat} (h : (w.shiftedIn k).Packs len x w') :
    w.Packs len x w' :=
  ⟨h.requests, h.accepted, h.answers, h.woff, h.pend, h.wflt, h.wval, h.drained, h.responses⟩

/-- A byte emitted, and then the rest packed: the number packed has that byte on top. -/
theorem WriteSide.Packs.of_emitted {w w' : WriteSide} {a : SnkAnswer} {rest : List SnkAnswer} {k y : Nat}
    (ha : w.answers = a :: rest) (hy : y < 2 ^ k) (h : (w.emitted rest).Packs k y w') :
    w.Packs (8 + k) (w.pend.toNat * 2 ^ k + y) w' := by
  have hdiv : (8 + k) / 8 = k / 8 + 1 := by omega
  have hmod : (8 + k) % 8 = k % 8 := by omega
  have hlow : (w.pend.toNat * 2 ^ k + y) % 2 ^ k = y := Nat.mul_add_mod_of_lt hy
  have htop : (w.pend.toNat * 2 ^ k + y) >>> k = w.pend.toNat := by
    rw [Nat.shiftRight_eq_div_pow, Nat.mul_comm, Nat.mul_add_div (Nat.two_pow_pos k), Nat.div_eq_of_lt hy,
      Nat.add_zero]
  have hbytes : packedBytes (8 + k) (w.pend.toNat * 2 ^ k + y) = w.pend :: packedBytes k y := by
    rw [packedBytes_eight_add, hlow, htop, BitVec.ofNat_toNat, BitVec.setWidth_eq]
  refine ⟨?requests, ?accepted, ?answers, ?woff, ?pend, h.wflt, h.wval, h.drained, h.responses⟩
  case requests => simp [hbytes, h.requests]
  case accepted => simp [hbytes, h.accepted]
  case answers => rw [h.answers, ha, hdiv, List.drop_succ_cons, emitted_answers]
  case woff => rw [h.woff, hmod]
  case pend =>
    have hdvd : 2 ^ (k % 8) ∣ 2 ^ k := Nat.pow_dvd_pow 2 (Nat.mod_le k 8)
    rw [h.pend, hmod, ← Nat.mod_mod_of_dvd (w.pend.toNat * 2 ^ k + y) hdvd, hlow]

/-- The loop packs the pending bits and its `k` bits of WVAL, where the sink accepts the bytes they fill (R148). -/
theorem writeLoop_packs (k : Nat) {w : WriteSide} {as rest : List SnkAnswer} (hinv : w.pendingInv)
    (hans : w.answers = as ++ rest) (has : AllAccepted as) (hlen : as.length = (w.woff.toNat + k) / 8) :
    ∃ w', writeLoop k w = .ok () w' ∧
      w.Packs (w.woff.toNat + k) (w.pend.toNat * 2 ^ k + w.wval.toNat % 2 ^ k) w' := by
  induction k generalizing w as with
  | zero => exact ⟨w, rfl, by simpa [Nat.mod_one] using WriteSide.Packs.refl hinv⟩
  | succ k ih =>
    have ⟨hle, _⟩ := hinv
    rw [← toNat_pend_shiftedIn_mul_add hinv k]
    by_cases hlt : w.woff.toNat < 7
    · have hne : w.woff + 1#4 ≠ 8#4 := by bv_omega
      have hoff := toNat_woff_shiftedIn hinv k
      have hsum : w.woff.toNat + (k + 1) = (w.shiftedIn k).woff.toNat + k := by omega
      rw [hsum] at hlen ⊢
      obtain ⟨w', hrun, hpacks⟩ := ih (pendingInv_shiftedIn hinv hlt k) hans has hlen
      exact ⟨w', (writeLoop_succ_of_partial k hne).trans hrun, hpacks.of_shiftedIn⟩
    · have hfull : w.woff + 1#4 = 8#4 := by bv_omega
      have hsum : w.woff.toNat + (k + 1) = 8 + k := by omega
      rw [hsum] at hlen ⊢
      obtain ⟨a, as, rfl⟩ := List.exists_cons_of_length_pos (l := as) (by omega)
      obtain ⟨ha, has⟩ := List.forall_mem_cons.mp has
      have hlen' : as.length = (0 + k) / 8 := by
        rw [List.length_cons] at hlen
        omega
      obtain ⟨w', hrun, hpacks⟩ := ih (pendingInv_emitted (as ++ rest) (w.shiftedIn k)) rfl has hlen'
      have hrest : ((w.shiftedIn k).emitted (as ++ rest)).Packs k (w.wval.toNat % 2 ^ k) w' := by
        simpa using hpacks
      have hlow : w.wval.toNat % 2 ^ k < 2 ^ k := Nat.mod_lt _ (Nat.two_pow_pos k)
      exact ⟨w', (writeLoop_succ_of_accepted k hfull hans ha).trans hrun,
        (WriteSide.Packs.of_emitted (w := w.shiftedIn k) hans hlow hrest).of_shiftedIn⟩

/-! ### WRBITS -/

/-- R147 on an unfaulted BW, for a width it accepts. -/
theorem wrbitsCommand_eq {w : WriteSide} (val : Value) {n : Nat} (hflt : w.wflt = false) (hn : n ≤ 128) :
    wrbitsCommand val n w = bwFinish .wrbits (writeLoop n (w.latched val)) := by
  have hwidth : tooWide n = false := by simpa [tooWide] using hn
  rw [wrbitsCommand, bwFrame_unfaulted hflt, hwidth, if_neg Bool.false_ne_true, WriteSide.latched]

/-- Settles O38: the loop packs the pending bits and the `n` bits of the value. -/
theorem wrbitsClosedForm : Obligations.WrbitsClosedForm := by
  intro s v n as rest bs hflt hinv _ hn hans has hlen hbs
  obtain ⟨w, hrun, hpacks⟩ := writeLoop_packs n (w := s.wr.latched v) hinv hans has hlen
  have hexec : exec (.wrbits v n) s = .next { s with wr := bwOk w } := by
    rw [exec_bw rfl, writerEffect, wrbitsCommand_eq v hflt hn, hrun, bwFinish]
  have hrest : w.answers = rest := by
    rw [hpacks.answers, WriteSide.latched, hans, ← hlen, List.drop_left]
  subst hbs
  exact ⟨_, hexec, rfl, hpacks.requests, hpacks.accepted, hrest, hpacks.woff, hpacks.pend, hpacks.wflt.trans hflt,
    hpacks.wval, hpacks.drained, hpacks.responses, rfl, rfl⟩

/-! ### WRBYTE -/

/-- R150 on an unfaulted BW. -/
theorem wrbyteCommand_eq {w : WriteSide} (val : Value) (hflt : w.wflt = false) :
    wrbyteCommand val w = bwFinish .wrbyte (writeLoop 8 (w.latched val)) := by
  rw [wrbyteCommand, bwFrame_unfaulted hflt, byteWidth, WriteSide.latched]

/-- Which command stops shows only in the name it waits under. -/
theorem bwFinish_eq_up_to_job (j j' : BwJob) (m : Micro Unit WriteSide) :
    { bwFinish j m with phase := .idle } = { bwFinish j' m with phase := .idle } ∧
      (bwFinish j m).phase.response = (bwFinish j' m).phase.response := by
  cases m with
  | ok u w => exact ⟨rfl, rfl⟩
  | blocked w => exact ⟨rfl, rfl⟩
  | raise e w => exact ⟨rfl, rfl⟩

/-- R151 for BW alone. -/
theorem wrbyteCommand_eq_wrbits_eight (val : Value) (w : WriteSide) :
    { wrbyteCommand val w with phase := .idle } = { wrbitsCommand val 8 w with phase := .idle } ∧
      (wrbyteCommand val w).phase.response = (wrbitsCommand val 8 w).phase.response := by
  cases hflt : w.wflt with
  | true =>
    rw [wrbyteCommand, wrbitsCommand, bwFrame_faulted hflt, bwFrame_faulted hflt]
    exact ⟨rfl, rfl⟩
  | false =>
    rw [wrbyteCommand_eq val hflt, wrbitsCommand_eq val hflt (by decide)]
    exact bwFinish_eq_up_to_job _ _ _

/-- Settles O41: both are the same loop of eight turns. -/
theorem wrbyteIsWrbitsOfEight : Obligations.WrbyteIsWrbitsOfEight := by
  intro s t u v ht hu
  cases ht
  cases hu
  obtain ⟨hstate, hresponse⟩ := wrbyteCommand_eq_wrbits_eight v s.wr
  exact ⟨congrArg (fun w => { s with wr := w }) hstate, hresponse⟩

end Sys2Proof.Machine
end

section
/-! When a command sets the fault latch (spec/60_exceptions.md rules R187, R188). A micro-operation of an unfaulted
engine leaves the latch clear, however it ends, and raises its own engine's errors only; the latch is then set by error
entry alone, which presents the error it latches. -/

namespace Sys2Proof.Machine

/-! ### However a micro-operation ends -/

/-- However it ends, the micro-operation leaves its engine in `P`, and an error it raises is in `p`. -/
def Micro.Leaves {α σ : Type} (P : σ → Prop) (p : Err → Prop) (m : Micro α σ) : Prop :=
  match m with
  | .ok _ s => P s
  | .blocked s => P s
  | .raise e s => p e ∧ P s

theorem Micro.Leaves.bind {α β σ : Type} {P : σ → Prop} {p : Err → Prop} {m : Micro α σ} {f : α → σ → Micro β σ}
    (hm : m.Leaves P p) (hf : ∀ a s, P s → (f a s).Leaves P p) : (m.bind f).Leaves P p := by
  cases m with
  | ok a s => exact hf a s hm
  | blocked s => exact hm
  | raise e s => exact hm

/-! ### BR -/

/-- RFLT is still clear, and an error raised is not BW's own (R180). -/
abbrev Micro.LeavesRfltClear {α : Type} (m : Micro α ReadSide) : Prop :=
  m.Leaves (fun r => r.rflt = false) (· ≠ .zeroBytesWritten)

theorem readBit_leavesRfltClear {r : ReadSide} (h : r.rflt = false) : (readBit r).LeavesRfltClear := by
  obtain ⟨-, hr⟩ | ⟨-, -, hr⟩ | ⟨a, rest, b, -, -, -, hr⟩ | ⟨a, rest, e, -, -, he, hr⟩ := readBit_cases r
  all_goals rw [hr]
  · exact h
  · exact h
  · exact h
  · have hown : e ≠ .zeroBytesWritten := by obtain ⟨rfl, -⟩ | ⟨c, rfl, -⟩ := he <;> simp
    exact ⟨hown, h⟩

theorem readLoop_leavesRfltClear (k : Nat) {r : ReadSide} (h : r.rflt = false) : (readLoop k r).LeavesRfltClear := by
  induction k generalizing r with
  | zero => exact h
  | succ k ih =>
    rw [readLoop_succ]
    exact (readBit_leavesRfltClear h).bind fun _ _ h' => ih h'

theorem brRest_leavesRfltClear (j : BrJob) {r : ReadSide} (h : r.rflt = false) : (brRest j r).LeavesRfltClear := by
  cases j with
  | rdbit => exact (readBit_leavesRfltClear h).bind fun _ _ h' => h'
  | rdbits => exact (readLoop_leavesRfltClear _ h).bind fun _ _ h' => h'
  | rdbyte => exact (readLoop_leavesRfltClear _ h).bind fun _ _ h' => h'

/-- RFLT is set exactly if a stream error of BR is presented (R188). -/
def ReadSide.LatchIffStreamError (r : ReadSide) : Prop :=
  r.rflt = true ↔ ∃ q, r.phase = .responding q ∧ q.status ∈ [Status.unexpectedEndOfInput, .underlyingIOError]

/-- The errors of BR that latch are those whose status is a stream error (R187, R188). -/
theorem Err.latches_iff_br {e : Err} (h : e ≠ .zeroBytesWritten) :
    e.latches = true ↔ e.status ∈ [Status.unexpectedEndOfInput, .underlyingIOError] := by
  cases e with
  | unexpectedEndOfInput => decide
  | invalidBitWidth => decide
  | zeroBytesWritten => exact absurd rfl h
  | underlyingIOError c => simp [Err.latches, Err.status]

theorem brRaise_latchIffStreamError {e : Err} {r : ReadSide} (h : r.rflt = false) (he : e ≠ .zeroBytesWritten) :
    (brRaise e r).LatchIffStreamError := by
  simpa [ReadSide.LatchIffStreamError, h] using Err.latches_iff_br he

theorem brFinish_latchIffStreamError (j : BrJob) {m : Micro Value ReadSide} (hm : m.LeavesRfltClear) :
    (brFinish j m).LatchIffStreamError := by
  cases m with
  | ok d r =>
    have hflt : r.rflt = false := hm
    simp [brFinish, ReadSide.LatchIffStreamError, hflt]
  | blocked r =>
    have hflt : r.rflt = false := hm
    simp [brFinish, ReadSide.LatchIffStreamError, hflt]
  | raise e r =>
    obtain ⟨he, hflt⟩ := hm
    exact brRaise_latchIffStreamError hflt he

theorem brRun_latchIffStreamError (j : BrJob) {r : ReadSide} (h : r.rflt = false) :
    (brRun j r).LatchIffStreamError :=
  brFinish_latchIffStreamError j (brRest_leavesRfltClear j h)

theorem rdbitsCommand_latchIffStreamError (n : Nat) {r : ReadSide} (h : r.rflt = false) :
    (rdbitsCommand n r).LatchIffStreamError := by
  rw [rdbitsCommand, brFrame_unfaulted h]
  split
  · exact brRaise_latchIffStreamError h (by simp)
  · exact brRun_latchIffStreamError .rdbits h

/-- R188 for the commands of BR. -/
theorem readerEffect_latchIffStreamError {i : Instr} (hi : i.port = .br) {r : ReadSide} (h : r.rflt = false) :
    (readerEffect i r).LatchIffStreamError := by
  cases i with
  | rdbit =>
    rw [readerEffect, rdbitCommand, brFrame_unfaulted h]
    exact brRun_latchIffStreamError .rdbit h
  | rdbits n => exact rdbitsCommand_latchIffStreamError n h
  | rdbyte =>
    rw [readerEffect, rdbyteCommand, brFrame_unfaulted h]
    exact brRun_latchIffStreamError .rdbyte h
  | _ => cases hi

/-! ### BW -/

/-- WFLT is still clear, and an error raised is not BR's own (R180). -/
abbrev Micro.LeavesWfltClear {α : Type} (m : Micro α WriteSide) : Prop :=
  m.Leaves (fun w => w.wflt = false) (· ≠ .unexpectedEndOfInput)

theorem emit_leavesWfltClear {w : WriteSide} (h : w.wflt = false) : (emit w).LeavesWfltClear := by
  obtain ⟨-, hr⟩ | ⟨a, rest, -, -, hr⟩ | ⟨a, rest, e, -, he, hr⟩ := emit_cases w
  all_goals rw [hr]
  · exact h
  · exact h
  · have hown : e ≠ .unexpectedEndOfInput := by obtain ⟨rfl, -⟩ | ⟨c, rfl, -⟩ := he <;> simp
    exact ⟨hown, h⟩

theorem shiftIn_leavesWfltClear (v : Bool) {w : WriteSide} (h : w.wflt = false) : (shiftIn v w).LeavesWfltClear := by
  by_cases hfull : w.woff + 1#4 = 8#4
  · rw [shiftIn_full v hfull]
    exact emit_leavesWfltClear h
  · rw [shiftIn_partial v hfull]
    exact h

theorem writeLoop_leavesWfltClear (k : Nat) {w : WriteSide} (h : w.wflt = false) :
    (writeLoop k w).LeavesWfltClear := by
  induction k generalizing w with
  | zero => exact h
  | succ k ih =>
    rw [writeLoop_succ]
    exact (shiftIn_leavesWfltClear (w := { w with widx := countRegister k }) _ h).bind fun _ _ h' => ih h'

theorem padLoop_leavesWfltClear (k : Nat) {w : WriteSide} (h : w.wflt = false) : (padLoop k w).LeavesWfltClear := by
  induction k generalizing w with
  | zero => exact h
  | succ k ih =>
    rw [padLoop_succ]
    exact (shiftIn_leavesWfltClear (w := { w with widx := countRegister k }) _ h).bind fun _ _ h' => ih h'

theorem padToByte_leavesWfltClear {w : WriteSide} (h : w.wflt = false) : (padToByte w).LeavesWfltClear := by
  by_cases h0 : w.woff = 0#4
  · rw [padToByte_aligned h0]
    exact h
  · rw [padToByte_partial h0]
    exact padLoop_leavesWfltClear _ h

/-- Everything the sink flush can do (R57). -/
theorem sinkFlush_cases (w : WriteSide) :
    (w.answers = [] ∧ sinkFlush w = .blocked w) ∨
    (∃ a rest, w.answers = a :: rest ∧ flushReply a = .done ∧
      sinkFlush w = .ok () { w with
        requests := w.requests ++ [.flush]
        answers := rest
        drained := w.accepted.length }) ∨
    (∃ a rest c, w.answers = a :: rest ∧ flushReply a = .ioerr c ∧
      sinkFlush w = .raise (.underlyingIOError c) { w with requests := w.requests ++ [.flush], answers := rest }) := by
  cases ha : w.answers with
  | nil => exact .inl ⟨rfl, by simp [sinkFlush, ha]⟩
  | cons a rest =>
    refine .inr ?_
    cases hr : flushReply a with
    | done => exact .inl ⟨a, rest, rfl, hr, by simp [sinkFlush, ha, flushAnswered, hr]⟩
    | ioerr c => exact .inr ⟨a, rest, c, rfl, hr, by simp [sinkFlush, ha, flushAnswered, hr]⟩

theorem sinkFlush_leavesWfltClear {w : WriteSide} (h : w.wflt = false) : (sinkFlush w).LeavesWfltClear := by
  obtain ⟨-, hr⟩ | ⟨a, rest, -, -, hr⟩ | ⟨a, rest, c, -, -, hr⟩ := sinkFlush_cases w
  all_goals rw [hr]
  · exact h
  · exact h
  · exact ⟨by simp, h⟩

/-- WFLT is set exactly if a stream error of BW is presented (R188). -/
def WriteSide.LatchIffStreamError (w : WriteSide) : Prop :=
  w.wflt = true ↔ ∃ q, w.phase = .responding q ∧ q.status ∈ [Status.zeroBytesWritten, .underlyingIOError]

/-- The errors of BW that latch are those whose status is a stream error (R187, R188). -/
theorem Err.latches_iff_bw {e : Err} (h : e ≠ .unexpectedEndOfInput) :
    e.latches = true ↔ e.status ∈ [Status.zeroBytesWritten, .underlyingIOError] := by
  cases e with
  | unexpectedEndOfInput => exact absurd rfl h
  | invalidBitWidth => decide
  | zeroBytesWritten => decide
  | underlyingIOError c => simp [Err.latches, Err.status]

theorem bwRaise_latchIffStreamError {e : Err} {w : WriteSide} (h : w.wflt = false) (he : e ≠ .unexpectedEndOfInput) :
    (bwRaise e w).LatchIffStreamError := by
  simpa [WriteSide.LatchIffStreamError, h] using Err.latches_iff_bw he

theorem bwRequesting_latchIffStreamError (j : BwJob) {w : WriteSide} (h : w.wflt = false) :
    { w with phase := .requesting j }.LatchIffStreamError := by
  simp [WriteSide.LatchIffStreamError, h]

theorem bwFinish_latchIffStreamError (j : BwJob) {m : Micro Unit WriteSide} (hm : m.LeavesWfltClear) :
    (bwFinish j m).LatchIffStreamError := by
  cases m with
  | ok u w =>
    have hflt : w.wflt = false := hm
    simp [bwFinish, WriteSide.LatchIffStreamError, hflt]
  | blocked w => exact bwRequesting_latchIffStreamError j hm
  | raise e w =>
    obtain ⟨he, hflt⟩ := hm
    exact bwRaise_latchIffStreamError hflt he

theorem bwFinishFlush_latchIffStreamError {m : Micro Unit WriteSide} (hm : m.LeavesWfltClear) :
    (bwFinishFlush m).LatchIffStreamError := by
  cases m with
  | ok u w => exact bwFinish_latchIffStreamError .flushSink (sinkFlush_leavesWfltClear hm)
  | blocked w => exact bwRequesting_latchIffStreamError .flushPad hm
  | raise e w =>
    obtain ⟨he, hflt⟩ := hm
    exact bwRaise_latchIffStreamError hflt he

theorem wrbitsCommand_latchIffStreamError (val : Value) (n : Nat) {w : WriteSide} (h : w.wflt = false) :
    (wrbitsCommand val n w).LatchIffStreamError := by
  rw [wrbitsCommand, bwFrame_unfaulted h]
  split
  · exact bwRaise_latchIffStreamError h (by simp)
  · exact bwFinish_latchIffStreamError .wrbits (writeLoop_leavesWfltClear n h)

/-- R188 for the commands of BW. -/
theorem writerEffect_latchIffStreamError {i : Instr} (hi : i.port = .bw) {w : WriteSide} (h : w.wflt = false) :
    (writerEffect i w).LatchIffStreamError := by
  cases i with
  | wrbit val =>
    rw [writerEffect, wrbitCommand, bwFrame_unfaulted h]
    exact bwFinish_latchIffStreamError .wrbit (shiftIn_leavesWfltClear _ h)
  | wrbits val n => exact wrbitsCommand_latchIffStreamError val n h
  | wrbyte val =>
    rw [writerEffect, wrbyteCommand, bwFrame_unfaulted h]
    exact bwFinish_latchIffStreamError .wrbyte (writeLoop_leavesWfltClear _ h)
  | pad =>
    rw [writerEffect, padCommand, bwFrame_unfaulted h]
    exact bwFinish_latchIffStreamError .pad (padToByte_leavesWfltClear h)
  | fpad =>
    rw [writerEffect, fpadCommand, bwFrame_unfaulted h]
    exact bwFinish_latchIffStreamError .fpad (emit_leavesWfltClear h)
  | flush =>
    rw [writerEffect, flushCommand, bwFrame_unfaulted h]
    exact bwFinishFlush_latchIffStreamError (padToByte_leavesWfltClear h)
  | _ => cases hi

/-- Settles O24: a command is its engine's effect, of which R188 holds command by command. -/
theorem streamErrorsLatchAndNothingElseDoes : Obligations.StreamErrorsLatchAndNothingElseDoes := by
  intro i s t ht
  rw [exec_eq] at ht
  cases ht
  exact ⟨fun hflt hbr => readerEffect_latchIffStreamError hbr hflt,
    fun hflt hbw => writerEffect_latchIffStreamError hbw hflt⟩

end Sys2Proof.Machine
end

section
/-! Encoding and decoding are inverse to each other, and the words no decoder accepts (spec/30_encoding.md rules R84 to
R89, R94, R97). -/

namespace Sys2Proof

/-! ### Decode of encode -/

@[simp] theorem formatF0_zero (i : Instr) : formatF0 0#8 i = .command i := rfl

/-- A count that fits CNT is read back whole (R87, R94). -/
theorem countOperand_ofNat {n : Nat} (h : countEncodable n = true) : countOperand (BitVec.ofNat 8 n) = n := by
  have hlt : n < 256 := by simpa [countEncodable] using h
  simpa [countOperand] using hlt

@[simp] theorem encode_port (i : Instr) : (encode i).port = i.port := by cases i <;> rfl

theorem decode_encode {i : Instr} (h : i.wellFormed = true) : decode (encode i) = .command i := by
  cases i with
  | rdbits n => simp [decode, encode, decodeOn, decodeBR, countOperand_ofNat h]
  | wrbits val n => simp [decode, encode, decodeOn, decodeBW, countOperand_ofNat h]
  | rdbit => simp [decode, encode, decodeOn, decodeBR]
  | rdbyte => simp [decode, encode, decodeOn, decodeBR]
  | wrbit val => simp [decode, encode, decodeOn, decodeBW]
  | wrbyte val => simp [decode, encode, decodeOn, decodeBW]
  | pad => simp [decode, encode, decodeOn, decodeBW]
  | fpad => simp [decode, encode, decodeOn, decodeBW]
  | flush => simp [decode, encode, decodeOn, decodeBW]

/-- Settles O2: the two fields of the word are the opcode and the count, and the value bus carries the operand. -/
theorem encodedCommandDecodesBack : Obligations.EncodedCommandDecodesBack :=
  fun i h => ⟨encode_port i, decode_encode h⟩

/-! ### Encode of decode -/

/-- A word is the command word of its opcode and its count (R84). -/
theorem cmdWord_eq_of_fields {w : CmdWord} {o : Opcode} {n : Nat} (hopc : opcodeOf (opcField w) = some o)
    (hcnt : cntField w = BitVec.ofNat 8 n) : cmdWord o n = w := by
  rw [word_eq_iff_fields, opcField_cmdWord, cntField_cmdWord]
  exact ⟨(opcodeOf_eq_some_iff.mp hopc).symm, hcnt.symm⟩

theorem cmdWord_countOperand {w : CmdWord} {o : Opcode} (hopc : opcodeOf (opcField w) = some o) :
    cmdWord o (countOperand (cntField w)) = w :=
  cmdWord_eq_of_fields hopc (by simp [countOperand])

theorem countEncodable_countOperand (c : BitVec 8) : countEncodable (countOperand c) = true :=
  decide_eq_true c.isLt

/-- What BR's decoder accepts is the word of a well-formed command. -/
theorem encode_of_decodeBR {w : CmdWord} {i : Instr} (h : decodeBR w = .command i) :
    i.wellFormed = true ∧ (encode i).word = w := by
  unfold decodeBR at h
  split at h
  case h_1 hopc | h_3 hopc =>
    obtain ⟨hcnt, rfl⟩ := formatF0_command h
    exact ⟨rfl, cmdWord_eq_of_fields hopc hcnt⟩
  case h_2 hopc =>
    cases h
    exact ⟨countEncodable_countOperand _, cmdWord_countOperand hopc⟩
  all_goals cases h

/-- What BW's decoder accepts is the word of a well-formed command. -/
theorem encode_of_decodeBW {w : CmdWord} {val : Value} {i : Instr} (h : decodeBW w val = .command i) :
    i.wellFormed = true ∧ (encode i).word = w := by
  unfold decodeBW at h
  split at h
  case h_2 hopc =>
    cases h
    exact ⟨countEncodable_countOperand _, cmdWord_countOperand hopc⟩
  case h_1 hopc | h_3 hopc | h_4 hopc | h_5 hopc | h_6 hopc =>
    obtain ⟨hcnt, rfl⟩ := formatF0_command h
    exact ⟨rfl, cmdWord_eq_of_fields hopc hcnt⟩
  all_goals cases h

theorem encode_of_decodeOn {p : Port} {w : CmdWord} {val : Value} {i : Instr} (h : decodeOn p w val = .command i) :
    i.wellFormed = true ∧ i.port = p ∧ (encode i).word = w := by
  cases p with
  | br =>
    obtain ⟨hwf, hword⟩ := encode_of_decodeBR h
    exact ⟨hwf, decodeBR_port h, hword⟩
  | bw =>
    obtain ⟨hwf, hword⟩ := encode_of_decodeBW h
    exact ⟨hwf, decodeBW_port h, hword⟩

/-- Settles O3: the word is read off its two fields, and decodes again by O2. -/
theorem decodedCommandEncodesBack : Obligations.DecodedCommandEncodesBack := by
  intro p w val i h
  obtain ⟨hwf, rfl, hword⟩ := encode_of_decodeOn h
  have hback : decodeOn (encode i).port (encode i).word (encode i).val = .command i := decode_encode hwf
  rw [encode_port] at hback
  exact ⟨hwf, encode_port i, hword, hback⟩

/-! ### The words outside the map -/

theorem formatF0_command?_eq_none_iff {c : BitVec 8} {i : Instr} : (formatF0 c i).command? = none ↔ c ≠ 0#8 := by
  unfold formatF0
  split <;> simp_all

/-- Settles O5, by the opcode OPC stands for, if any. -/
theorem illegalWordsOfEachPort : Obligations.IllegalWordsOfEachPort := by
  intro w val
  simp only [decodeBR, decodeBW]
  cases hopc : opcodeOf (opcField w) with
  | none =>
    unfold opcodeOf at hopc
    split_ifs at hopc
    constructor <;> simp [*]
  | some o =>
    rw [opcodeOf_eq_some_iff.mp hopc]
    cases o <;> simp [formatF0_command?_eq_none_iff, Opcode.number]

/-- Settles O1: the words are closed, and the decoders compute. -/
theorem wordsOfEveryCommandDecode : Obligations.WordsOfEveryCommandDecode := by
  unfold Obligations.WordsOfEveryCommandDecode
  decide

end Sys2Proof
end

section
/-! How a micro-operation can end, and how a command of BR can end: what every end leaves as it was (spec/10_state.md rules
R3, R41, spec/20_memory.md rule R54, spec/40_reader.md rule R110). -/

namespace Sys2Proof.Machine

/-! ### The three ends of a micro-operation -/

/-- The micro-operation ends well with `Q`, waits with `B`, or raises with `E`. -/
def Micro.Ends {α σ : Type} (m : Micro α σ) (Q : α → σ → Prop) (B : σ → Prop) (E : Err → σ → Prop) : Prop :=
  match m with
  | .ok a s => Q a s
  | .blocked s => B s
  | .raise e s => E e s

theorem Micro.Ends.bind {α β σ : Type} {m : Micro α σ} {f : α → σ → Micro β σ} {Q : α → σ → Prop}
    {Q' : β → σ → Prop} {B : σ → Prop} {E : Err → σ → Prop} (hm : m.Ends Q B E)
    (hf : ∀ a s, Q a s → (f a s).Ends Q' B E) : (m.bind f).Ends Q' B E := by
  cases m with
  | ok a s => exact hf a s hm
  | blocked s => exact hm
  | raise e s => exact hm

theorem Micro.Ends.mono {α σ : Type} {m : Micro α σ} {Q Q' : α → σ → Prop} {B B' : σ → Prop} {E E' : Err → σ → Prop}
    (hm : m.Ends Q B E) (hQ : ∀ a s, Q a s → Q' a s) (hB : ∀ s, B s → B' s) (hE : ∀ e s, E e s → E' e s) :
    m.Ends Q' B' E' := by
  cases m with
  | ok a s => exact hQ a s hm
  | blocked s => exact hB s hm
  | raise e s => exact hE e s hm

/-! ### The errors of the source -/

/-- The source answers a fetch with the error `e` (R54, R111). -/
def SrcAnswer.Fails (a : SrcAnswer) (e : Err) : Prop :=
  e = .unexpectedEndOfInput ∧ srcReply a = .eos ∨ ∃ c, e = .underlyingIOError c ∧ srcReply a = .ioerr c

/-- An error a fetch can raise (R181, R184). -/
def Err.OfSource (e : Err) : Prop := e = .unexpectedEndOfInput ∨ ∃ c, e = .underlyingIOError c

theorem SrcAnswer.Fails.ofSource {a : SrcAnswer} {e : Err} (h : a.Fails e) : e.OfSource := by
  obtain ⟨rfl, -⟩ | ⟨c, rfl, -⟩ := h
  · exact .inl rfl
  · exact .inr ⟨c, rfl⟩

theorem Err.OfSource.latches {e : Err} (h : e.OfSource) : e.latches = true := by
  obtain rfl | ⟨c, rfl⟩ := h <;> rfl

theorem Err.OfSource.status_mem {e : Err} (h : e.OfSource) :
    e.status ∈ [Status.unexpectedEndOfInput, .underlyingIOError] := by
  obtain rfl | ⟨c, rfl⟩ := h
  · decide
  · simp [Err.status]

/-- The response of a failed fetch has the form of R90. -/
theorem Err.OfSource.response_wf {e : Err} (h : e.OfSource) : (⟨e.status, 0#128, e.iocode⟩ : BrResponse).wf := by
  obtain rfl | ⟨c, rfl⟩ := h <;> simp [BrResponse.wf, Err.status, Err.iocode]

/-! ### What a stretch of a BR command leaves -/

/-- `r'` is `r` after some fetches that the source answered without delay (R3, R41). -/
structure ReadSide.Frame (r r' : ReadSide) : Prop where
  rflt : r'.rflt = r.rflt
  commands : r'.commands = r.commands
  responses : r'.responses = r.responses
  /-- One answer is used up by each fetch. -/
  fetched : ∃ k, r'.answers = r.answers.drop k ∧ r'.fetches = r.fetches + k ∧ k ≤ r.answers.length
  taken : r.taken <+: r'.taken

theorem ReadSide.Frame.refl (r : ReadSide) : r.Frame r :=
  ⟨rfl, rfl, rfl, ⟨0, rfl, rfl, Nat.zero_le _⟩, List.prefix_rfl⟩

theorem ReadSide.Frame.trans {r r' r'' : ReadSide} (h : r.Frame r') (h' : r'.Frame r'') : r.Frame r'' := by
  obtain ⟨k, hans, hfetch, hle⟩ := h.fetched
  obtain ⟨k', hans', hfetch', hle'⟩ := h'.fetched
  rw [hans, List.length_drop] at hle'
  exact ⟨h'.rflt.trans h.rflt, h'.commands.trans h.commands, h'.responses.trans h.responses,
    ⟨k + k', by rw [hans', hans, List.drop_drop], by omega, by omega⟩, h.taken.trans h'.taken⟩

/-- A fetch, whatever its answer does to CUR and ROFF. -/
theorem ReadSide.Frame.of_fetch {r : ReadSide} {a : SrcAnswer} {rest : List SrcAnswer} (ha : r.answers = a :: rest)
    (c : Byte) (o : Offset) (new : List Byte) :
    r.Frame { r with cur := c, roff := o, fetches := r.fetches + 1, answers := rest, taken := r.taken ++ new } :=
  ⟨rfl, rfl, rfl, ⟨1, by simp [ha], rfl, by simp [ha]⟩, List.prefix_append _ _⟩

theorem readBit_frame {r₀ r : ReadSide} (h : r₀.Frame r) : (readBit r).Leaves r₀.Frame Err.OfSource := by
  obtain ⟨-, hr⟩ | ⟨-, -, hr⟩ | ⟨a, rest, b, -, ha, -, hr⟩ | ⟨a, rest, e, -, ha, he, hr⟩ := readBit_cases r
  all_goals rw [hr]
  · exact ⟨h.rflt, h.commands, h.responses, h.fetched, h.taken⟩
  · exact h
  · exact h.trans (.of_fetch ha _ _ _)
  · exact ⟨SrcAnswer.Fails.ofSource he, by simpa using h.trans (.of_fetch ha r.cur r.roff [])⟩

theorem readLoop_frame (k : Nat) {r₀ r : ReadSide} (h : r₀.Frame r) : (readLoop k r).Leaves r₀.Frame Err.OfSource := by
  induction k generalizing r with
  | zero => exact h
  | succ k ih =>
    rw [readLoop_succ]
    exact (readBit_frame h).bind fun _ _ h' => ih ⟨h'.rflt, h'.commands, h'.responses, h'.fetched, h'.taken⟩

theorem brRest_frame (j : BrJob) {r₀ r : ReadSide} (h : r₀.Frame r) : (brRest j r).Leaves r₀.Frame Err.OfSource := by
  cases j with
  | rdbit => exact (readBit_frame h).bind fun _ _ h' => h'
  | rdbits => exact (readLoop_frame _ h).bind fun _ _ h' => h'
  | rdbyte => exact (readLoop_frame _ h).bind fun _ _ h' => h'

/-! ### The ends of a BR command -/

/-- How the command `i` can end on BR (R110, R116). -/
inductive ReaderEnd (i : Instr) (r : ReadSide) : ReadSide → Prop
  | faulted (hflt : r.rflt = true) : ReaderEnd i r (brRefuse .engineFaulted r)
  | tooWide (n : Nat) (hflt : r.rflt = false) (hi : i = .rdbits n) (hn : 128 < n) :
      ReaderEnd i r (brRaise .invalidBitWidth r)
  | answered (d : Value) (r' : ReadSide) (hflt : r.rflt = false) (h : r.Frame r') : ReaderEnd i r (brOk d r')
  | waits (j : BrJob) (r' : ReadSide) (hflt : r.rflt = false) (h : r.Frame r') :
      ReaderEnd i r { r' with phase := .requesting j }
  | failed (e : Err) (r' : ReadSide) (hflt : r.rflt = false) (he : e.OfSource) (h : r.Frame r') :
      ReaderEnd i r (brRaise e r')

theorem brFinish_end (i : Instr) (j : BrJob) {r : ReadSide} {m : Micro Value ReadSide} (hflt : r.rflt = false)
    (hm : m.Leaves r.Frame Err.OfSource) : ReaderEnd i r (brFinish j m) := by
  cases m with
  | ok d r' => exact .answered d r' hflt hm
  | blocked r' => exact .waits j r' hflt hm
  | raise e r' => exact .failed e r' hflt hm.1 hm.2

/-- R189 for BR. -/
theorem readerEffect_faulted {i : Instr} (hi : i.port = .br) {r : ReadSide} (hflt : r.rflt = true) :
    readerEffect i r = brRefuse .engineFaulted r := by
  cases i with
  | rdbit => rw [readerEffect, rdbitCommand, brFrame_faulted hflt]
  | rdbits n => rw [readerEffect, rdbitsCommand, brFrame_faulted hflt]
  | rdbyte => rw [readerEffect, rdbyteCommand, brFrame_faulted hflt]
  | _ => cases hi

theorem readerEffect_end {i : Instr} (hi : i.port = .br) (r : ReadSide) : ReaderEnd i r (readerEffect i r) := by
  cases hflt : r.rflt with
  | true =>
    rw [readerEffect_faulted hi hflt]
    exact .faulted hflt
  | false =>
    cases i with
    | rdbit =>
      rw [readerEffect, rdbitCommand, brFrame_unfaulted hflt]
      exact brFinish_end _ _ hflt (brRest_frame _ (.refl r))
    | rdbits n =>
      rw [readerEffect, rdbitsCommand, brFrame_unfaulted hflt]
      by_cases hn : 128 < n
      · rw [if_pos ((tooWide_iff n).mpr hn)]
        exact .tooWide n hflt rfl hn
      · rw [if_neg (mt (tooWide_iff n).mp hn)]
        exact brFinish_end _ _ hflt (brRest_frame _ ⟨rfl, rfl, rfl, (ReadSide.Frame.refl r).fetched, List.prefix_rfl⟩)
    | rdbyte =>
      rw [readerEffect, rdbyteCommand, brFrame_unfaulted hflt]
      exact brFinish_end _ _ hflt (brRest_frame _ ⟨rfl, rfl, rfl, (ReadSide.Frame.refl r).fetched, List.prefix_rfl⟩)
    | _ => cases hi

/-- A BR command ends with BR presenting a response or a fetch request (R69, R83). -/
theorem ReaderEnd.presents {i : Instr} {r r' : ReadSide} (h : ReaderEnd i r r') :
    r'.phase.isResponding = true ∨ r'.phase.isRequesting = true := by
  cases h with
  | waits j r' hflt h => exact .inr rfl
  | _ => exact .inl rfl

/-- Whatever way a BR command ends, it has left the records of the session alone and used one answer a fetch. -/
theorem ReaderEnd.records {i : Instr} {r r' : ReadSide} (h : ReaderEnd i r r') :
    r'.commands = r.commands ∧ r'.responses = r.responses ∧
      (∃ k, r'.answers = r.answers.drop k ∧ r'.fetches = r.fetches + k ∧ k ≤ r.answers.length) ∧ r.taken <+: r'.taken := by
  cases h with
  | faulted hflt => exact ⟨rfl, rfl, (ReadSide.Frame.refl r).fetched, List.prefix_rfl⟩
  | tooWide n hflt hi hn => exact ⟨rfl, rfl, (ReadSide.Frame.refl r).fetched, List.prefix_rfl⟩
  | answered d r' hflt h => exact ⟨h.commands, h.responses, h.fetched, h.taken⟩
  | waits j r' hflt h => exact ⟨h.commands, h.responses, h.fetched, h.taken⟩
  | failed e r' hflt he h => exact ⟨h.commands, h.responses, h.fetched, h.taken⟩

theorem ReaderEnd.response_wf {i : Instr} {r r' : ReadSide} {q : BrResponse} (h : ReaderEnd i r r')
    (hq : r'.phase = .responding q) : q.wf := by
  cases h with
  | waits j r' hflt h => cases hq
  | failed e r' hflt he h =>
    cases hq
    exact he.response_wf
  | _ =>
    cases hq
    simp [BrResponse.wf, Err.status, Err.iocode]

/-- A response whose status is a refusal, InvalidBitWidth or EngineFaulted, is all that a BR command has done (R187). -/
theorem ReaderEnd.eq_of_refused {i : Instr} {r r' : ReadSide} {q : BrResponse} (h : ReaderEnd i r r')
    (hq : r'.phase = .responding q) (hst : q.status ∈ [Status.invalidBitWidth, .illegalCommand, .engineFaulted]) :
    r' = { r with phase := .responding q } := by
  cases h with
  | faulted hflt =>
    cases hq
    rfl
  | tooWide n hflt hi hn =>
    cases hq
    simp [brRaise, brRespond, hflt, latchAfter, Err.latches]
  | answered d r' hflt h =>
    cases hq
    simp at hst
  | waits j r' hflt h => cases hq
  | failed e r' hflt he h =>
    cases hq
    obtain rfl | ⟨c, rfl⟩ := he <;> simp [Err.status] at hst

theorem ReaderEnd.tooWide_of_invalidBitWidth {i : Instr} {r r' : ReadSide} {q : BrResponse} (h : ReaderEnd i r r')
    (hq : r'.phase = .responding q) (hst : q.status = .invalidBitWidth) : ∃ n, i = .rdbits n ∧ 128 < n := by
  cases h with
  | tooWide n hflt hi hn => exact ⟨n, hi, hn⟩
  | waits j r' hflt h => cases hq
  | faulted hflt =>
    cases hq
    cases hst
  | answered d r' hflt h =>
    cases hq
    cases hst
  | failed e r' hflt he h =>
    cases hq
    obtain rfl | ⟨c, rfl⟩ := he <;> cases hst

/-- READBIT leaves ACC and BCNT, which only RDBITS and RDBYTE write (R41). -/
theorem readBit_acc_bcnt (r : ReadSide) :
    (readBit r).Leaves (fun r' => r'.acc = r.acc ∧ r'.bcnt = r.bcnt) fun _ => True := by
  obtain ⟨-, hr⟩ | ⟨-, -, hr⟩ | ⟨a, rest, b, -, -, -, hr⟩ | ⟨a, rest, e, -, -, -, hr⟩ := readBit_cases r
  all_goals rw [hr]; simp [Micro.Leaves]

theorem brFinish_acc_bcnt (j : BrJob) {r : ReadSide} {m : Micro Value ReadSide}
    (hm : m.Leaves (fun r' => r'.acc = r.acc ∧ r'.bcnt = r.bcnt) fun _ => True) :
    (brFinish j m).acc = r.acc ∧ (brFinish j m).bcnt = r.bcnt := by
  cases m with
  | ok d r' => exact hm
  | blocked r' => exact hm
  | raise e r' => exact hm.2

theorem rdbitCommand_acc_bcnt (r : ReadSide) : (rdbitCommand r).acc = r.acc ∧ (rdbitCommand r).bcnt = r.bcnt := by
  cases hflt : r.rflt with
  | true =>
    rw [rdbitCommand, brFrame_faulted hflt]
    exact ⟨rfl, rfl⟩
  | false =>
    rw [rdbitCommand, brFrame_unfaulted hflt]
    exact brFinish_acc_bcnt .rdbit ((readBit_acc_bcnt r).bind fun _ _ h => h)

/-- Settles O33, by the ends of a BR command. -/
theorem readerCommandFrame : Obligations.ReaderCommandFrame := by
  intro i s t hi ht
  rw [exec_br hi] at ht
  cases ht
  obtain ⟨hcommands, hresponses, hfetched, htaken⟩ := (readerEffect_end hi s.rd).records
  refine ⟨rfl, rfl, hcommands, hresponses, hfetched, htaken, ?rdbit⟩
  rintro rfl
  exact rdbitCommand_acc_bcnt s.rd

end Sys2Proof.Machine
end

section
/-! The one loop behind WRBITS, WRBYTE, PAD and FLUSH, and how a command of BW can end: what every end leaves as it was
(spec/10_state.md rules R3, R41, spec/20_memory.md rules R56, R57, spec/41_writer.md rule R140). -/

namespace Sys2Proof.Machine

/-! ### One loop -/

theorem Micro.bind_congr {α β σ : Type} {m : Micro α σ} {f g : α → σ → Micro β σ} {P : σ → Prop} {p : Err → Prop}
    (hm : m.Leaves P p) (h : ∀ a s, P s → f a s = g a s) : m.bind f = m.bind g := by
  cases m with
  | ok a s => exact h a s hm
  | blocked s => rfl
  | raise e s => rfl

/-- `k` turns of SHIFTIN with the bits `bit (k - 1)` down to `bit 0`, WIDX counting with them. -/
def shiftLoop (bit : Nat → Bool) : Nat → WriteSide → Micro Unit WriteSide
  | 0, w => .ok () w
  | k + 1, w => (shiftIn (bit k) { w with widx := countRegister k }).bind fun _ w' => shiftLoop bit k w'

theorem shiftLoop_succ (bit : Nat → Bool) (k : Nat) (w : WriteSide) :
    shiftLoop bit (k + 1) w =
      (shiftIn (bit k) { w with widx := countRegister k }).bind fun _ w' => shiftLoop bit k w' := rfl

/-- The loop of PAD and FLUSH shifts in zeros (R153). -/
theorem padLoop_eq_shiftLoop (k : Nat) (w : WriteSide) : padLoop k w = shiftLoop (fun _ => false) k w := by
  induction k generalizing w with
  | zero => rfl
  | succ k ih => simp only [padLoop_succ, shiftLoop_succ, ih]

/-- EMIT leaves WVAL and WIDX (R41). -/
theorem emit_wval_widx (w : WriteSide) :
    (emit w).Leaves (fun w' => w'.wval = w.wval ∧ w'.widx = w.widx) fun _ => True := by
  obtain ⟨-, hr⟩ | ⟨a, rest, -, -, hr⟩ | ⟨a, rest, e, -, -, hr⟩ := emit_cases w
  all_goals rw [hr]; simp [Micro.Leaves]

/-- SHIFTIN leaves WVAL and WIDX (R41). -/
theorem shiftIn_wval_widx (v : Bool) (w : WriteSide) :
    (shiftIn v w).Leaves (fun w' => w'.wval = w.wval ∧ w'.widx = w.widx) fun _ => True := by
  by_cases hfull : w.woff + 1#4 = 8#4
  · rw [shiftIn_full v hfull]
    exact emit_wval_widx _
  · rw [shiftIn_partial v hfull]
    exact ⟨rfl, rfl⟩

/-- The loop of WRBITS and WRBYTE shifts in the bits of WVAL, which it leaves (R147). -/
theorem writeLoop_eq_shiftLoop (k : Nat) (w : WriteSide) : writeLoop k w = shiftLoop (valueBit w.wval) k w := by
  induction k generalizing w with
  | zero => rfl
  | succ k ih =>
    rw [writeLoop_succ, shiftLoop_succ]
    refine Micro.bind_congr (shiftIn_wval_widx _ _) fun _ w' h => ?_
    rw [ih w', h.1]

/-! ### The errors of the sink -/

/-- An error a request to the sink can raise (R183, R184). -/
def Err.OfSink (e : Err) : Prop := e = .zeroBytesWritten ∨ ∃ c, e = .underlyingIOError c

theorem SnkAnswer.Fails.ofSink {a : SnkAnswer} {e : Err} (h : a.Fails e) : e.OfSink := by
  obtain ⟨rfl, -⟩ | ⟨c, rfl, -⟩ := h
  · exact .inl rfl
  · exact .inr ⟨c, rfl⟩

theorem Err.OfSink.latches {e : Err} (h : e.OfSink) : e.latches = true := by
  obtain rfl | ⟨c, rfl⟩ := h <;> rfl

theorem Err.OfSink.status_mem {e : Err} (h : e.OfSink) : e.status ∈ [Status.zeroBytesWritten, .underlyingIOError] := by
  obtain rfl | ⟨c, rfl⟩ := h
  · decide
  · simp [Err.status]

/-- The response of a failed request has the form of R91. -/
theorem Err.OfSink.response_wf {e : Err} (h : e.OfSink) : (⟨e.status, e.iocode⟩ : BwResponse).wf := by
  obtain rfl | ⟨c, rfl⟩ := h <;> simp [BwResponse.wf, Err.status, Err.iocode]

/-! ### What a stretch of a BW command leaves -/

theorem writtenBytes_append (qs qs' : List SnkRequest) :
    writtenBytes (qs ++ qs') = writtenBytes qs ++ writtenBytes qs' := by
  induction qs with
  | nil => rfl
  | cons q qs ih => cases q <;> simp [writtenBytes, ih]

@[simp] theorem writtenBytes_map_write (bs : List Byte) : writtenBytes (bs.map SnkRequest.write) = bs := by
  induction bs with
  | nil => rfl
  | cons b bs ih => simp [writtenBytes, ih]

/-- `w'` is `w` after some requests that the sink answered without delay; `fl` says whether a FLUSH request may be among
them (R3, R41, R66). -/
structure WriteSide.Frame (fl : Prop) (w w' : WriteSide) : Prop where
  wflt : w'.wflt = w.wflt
  wval : w'.wval = w.wval
  commands : w'.commands = w.commands
  responses : w'.responses = w.responses
  /-- One answer is used up by each request, and the bytes accepted are among those offered. -/
  sent : ∃ new acc, w'.requests = w.requests ++ new ∧ w'.accepted = w.accepted ++ acc ∧
    acc.Sublist (writtenBytes new) ∧ w'.answers = w.answers.drop new.length ∧ new.length ≤ w.answers.length ∧
    (SnkRequest.flush ∈ new → fl)
  drained : w'.drained = w.drained ∨ fl ∧ w'.drained ≤ w'.accepted.length

/-- What changes no port is a frame. -/
theorem WriteSide.Frame.of_ports {fl : Prop} {w w' : WriteSide} (hflt : w'.wflt = w.wflt) (hval : w'.wval = w.wval)
    (hcommands : w'.commands = w.commands) (hresponses : w'.responses = w.responses)
    (hrequests : w'.requests = w.requests) (haccepted : w'.accepted = w.accepted) (hanswers : w'.answers = w.answers)
    (hdrained : w'.drained = w.drained) : w.Frame fl w' :=
  ⟨hflt, hval, hcommands, hresponses, ⟨[], [], by simp [*, writtenBytes]⟩, .inl hdrained⟩

theorem WriteSide.Frame.refl (fl : Prop) (w : WriteSide) : w.Frame fl w :=
  .of_ports rfl rfl rfl rfl rfl rfl rfl rfl

theorem WriteSide.Frame.trans {fl : Prop} {w w' w'' : WriteSide} (h : w.Frame fl w') (h' : w'.Frame fl w'') :
    w.Frame fl w'' := by
  obtain ⟨new, acc, hreq, hacc, hsub, hans, hle, hfl⟩ := h.sent
  obtain ⟨new', acc', hreq', hacc', hsub', hans', hle', hfl'⟩ := h'.sent
  refine ⟨h'.wflt.trans h.wflt, h'.wval.trans h.wval, h'.commands.trans h.commands, h'.responses.trans h.responses,
    ⟨new ++ new', acc ++ acc', by simp [hreq', hreq], by simp [hacc', hacc], ?bytes, by simp [hans', hans], ?length,
      fun hmem => (List.mem_append.mp hmem).elim hfl hfl'⟩, ?drained⟩
  case bytes =>
    rw [writtenBytes_append]
    exact hsub.append hsub'
  case length =>
    rw [hans, List.length_drop] at hle'
    rw [List.length_append]
    omega
  case drained =>
    have hgrow : w'.accepted.length ≤ w''.accepted.length := by simp [hacc']
    obtain hd' | hd' := h'.drained
    · rw [hd']
      exact h.drained.imp_right fun hd => ⟨hd.1, hd.2.trans hgrow⟩
    · exact .inr hd'

/-- A WRITE request that was answered, accepted or not. -/
theorem WriteSide.Frame.of_write (fl : Prop) {w : WriteSide} {a : SnkAnswer} {rest : List SnkAnswer}
    (ha : w.answers = a :: rest) (p : Byte) (o : Offset) {acc : List Byte} (hacc : acc.Sublist [w.pend]) :
    w.Frame fl { w with
      pend := p, woff := o, requests := w.requests ++ [.write w.pend], answers := rest,
      accepted := w.accepted ++ acc } :=
  ⟨rfl, rfl, rfl, rfl, ⟨[.write w.pend], acc, rfl, rfl, hacc, by simp [ha], by simp [ha], by simp⟩, .inl rfl⟩

theorem emit_frame {fl : Prop} {w₀ w : WriteSide} (h : w₀.Frame fl w) : (emit w).Leaves (w₀.Frame fl) Err.OfSink := by
  obtain ⟨-, hr⟩ | ⟨a, rest, ha, -, hr⟩ | ⟨a, rest, e, ha, he, hr⟩ := emit_cases w
  all_goals rw [hr]
  · exact h
  · exact h.trans (.of_write fl ha _ _ (.refl _))
  · exact ⟨SnkAnswer.Fails.ofSink he,
      by simpa using h.trans (.of_write fl ha w.pend w.woff (List.nil_sublist _))⟩

theorem shiftIn_frame (v : Bool) {fl : Prop} {w₀ w : WriteSide} (h : w₀.Frame fl w) :
    (shiftIn v w).Leaves (w₀.Frame fl) Err.OfSink := by
  by_cases hfull : w.woff + 1#4 = 8#4
  · rw [shiftIn_full v hfull]
    exact emit_frame (h.trans (.of_ports rfl rfl rfl rfl rfl rfl rfl rfl))
  · rw [shiftIn_partial v hfull]
    exact h.trans (.of_ports rfl rfl rfl rfl rfl rfl rfl rfl)

theorem shiftLoop_frame (bit : Nat → Bool) (k : Nat) {fl : Prop} {w₀ w : WriteSide} (h : w₀.Frame fl w) :
    (shiftLoop bit k w).Leaves (w₀.Frame fl) Err.OfSink := by
  induction k generalizing w with
  | zero => exact h
  | succ k ih =>
    rw [shiftLoop_succ]
    have hstart : w₀.Frame fl { w with widx := countRegister k } :=
      h.trans (.of_ports rfl rfl rfl rfl rfl rfl rfl rfl)
    exact (shiftIn_frame (bit k) hstart).bind fun _ _ h' => ih h'

theorem padToByte_frame {fl : Prop} {w₀ w : WriteSide} (h : w₀.Frame fl w) :
    (padToByte w).Leaves (w₀.Frame fl) Err.OfSink := by
  by_cases h0 : w.woff = 0#4
  · rw [padToByte_aligned h0]
    exact h
  · rw [padToByte_partial h0, padLoop_eq_shiftLoop]
    exact shiftLoop_frame _ _ h

/-- A FLUSH request that was answered, DONE or not. -/
theorem WriteSide.Frame.of_flush {w : WriteSide} {a : SnkAnswer} {rest : List SnkAnswer}
    (ha : w.answers = a :: rest) {n : Nat} (hn : n = w.drained ∨ n = w.accepted.length) :
    w.Frame True { w with requests := w.requests ++ [.flush], answers := rest, drained := n } :=
  ⟨rfl, rfl, rfl, rfl, ⟨[.flush], [], rfl, by simp, List.nil_sublist _, by simp [ha], by simp [ha], fun _ => trivial⟩,
    hn.imp_right fun h => ⟨trivial, h.le⟩⟩

theorem sinkFlush_frame {w₀ w : WriteSide} (h : w₀.Frame True w) : (sinkFlush w).Leaves (w₀.Frame True) Err.OfSink := by
  obtain ⟨-, hr⟩ | ⟨a, rest, ha, -, hr⟩ | ⟨a, rest, c, ha, -, hr⟩ := sinkFlush_cases w
  all_goals rw [hr]
  · exact h
  · exact h.trans (.of_flush ha (.inr rfl))
  · exact ⟨.inr ⟨c, rfl⟩, h.trans (.of_flush ha (.inl rfl))⟩

/-! ### The ends of a BW command -/

/-- BW with the value operand of `i` latched, if it has one (R36). -/
def WriteSide.latching (i : Instr) (w : WriteSide) : WriteSide :=
  match i with
  | .wrbit val => w.latched val
  | .wrbits val _ => w.latched val
  | .wrbyte val => w.latched val
  | _ => w

/-- How the command `i` can end on BW (R140, R147). -/
inductive WriterEnd (i : Instr) (w : WriteSide) : WriteSide → Prop
  | faulted (hflt : w.wflt = true) : WriterEnd i w (bwRefuse .engineFaulted w)
  | tooWide (val : Value) (n : Nat) (hflt : w.wflt = false) (hi : i = .wrbits val n) (hn : 128 < n) :
      WriterEnd i w (bwRaise .invalidBitWidth w)
  | answered (w' : WriteSide) (hflt : w.wflt = false) (h : (w.latching i).Frame (i = .flush) w') :
      WriterEnd i w (bwOk w')
  | waits (j : BwJob) (w' : WriteSide) (hflt : w.wflt = false) (h : (w.latching i).Frame (i = .flush) w') :
      WriterEnd i w { w' with phase := .requesting j }
  | failed (e : Err) (w' : WriteSide) (hflt : w.wflt = false) (he : e.OfSink)
      (h : (w.latching i).Frame (i = .flush) w') : WriterEnd i w (bwRaise e w')

theorem bwFinish_end (i : Instr) (j : BwJob) {w : WriteSide} {m : Micro Unit WriteSide} (hflt : w.wflt = false)
    (hm : m.Leaves ((w.latching i).Frame (i = .flush)) Err.OfSink) : WriterEnd i w (bwFinish j m) := by
  cases m with
  | ok u w' => exact .answered w' hflt hm
  | blocked w' => exact .waits j w' hflt hm
  | raise e w' => exact .failed e w' hflt hm.1 hm.2

theorem bwFinishFlush_end {w : WriteSide} {m : Micro Unit WriteSide} (hflt : w.wflt = false)
    (hm : m.Leaves (w.Frame True) Err.OfSink) : WriterEnd .flush w (bwFinishFlush m) := by
  have hframe : (w.latching .flush).Frame (Instr.flush = .flush) = w.Frame True := by simp [WriteSide.latching]
  cases m with
  | ok u w' => exact bwFinish_end .flush .flushSink hflt (hframe ▸ sinkFlush_frame hm)
  | blocked w' => exact .waits .flushPad w' hflt (hframe ▸ hm)
  | raise e w' => exact .failed e w' hflt hm.1 (hframe ▸ hm.2)

/-- R189 for BW. -/
theorem writerEffect_faulted {i : Instr} (hi : i.port = .bw) {w : WriteSide} (hflt : w.wflt = true) :
    writerEffect i w = bwRefuse .engineFaulted w := by
  cases i with
  | wrbit val => rw [writerEffect, wrbitCommand, bwFrame_faulted hflt]
  | wrbits val n => rw [writerEffect, wrbitsCommand, bwFrame_faulted hflt]
  | wrbyte val => rw [writerEffect, wrbyteCommand, bwFrame_faulted hflt]
  | pad => rw [writerEffect, padCommand, bwFrame_faulted hflt]
  | fpad => rw [writerEffect, fpadCommand, bwFrame_faulted hflt]
  | flush => rw [writerEffect, flushCommand, bwFrame_faulted hflt]
  | _ => cases hi

/-- R147's loop, on an unfaulted BW. -/
theorem wrbitsCommand_end (val : Value) (n : Nat) {w : WriteSide} (hflt : w.wflt = false) :
    WriterEnd (.wrbits val n) w (wrbitsCommand val n w) := by
  by_cases hn : 128 < n
  · rw [wrbitsCommand, bwFrame_unfaulted hflt, if_pos ((tooWide_iff n).mpr hn)]
    exact .tooWide val n hflt rfl hn
  · rw [wrbitsCommand_eq val hflt (Nat.le_of_not_lt hn), writeLoop_eq_shiftLoop]
    exact bwFinish_end _ _ hflt (shiftLoop_frame _ _ (.refl _ _))

theorem writerEffect_end {i : Instr} (hi : i.port = .bw) (w : WriteSide) : WriterEnd i w (writerEffect i w) := by
  cases hflt : w.wflt with
  | true =>
    rw [writerEffect_faulted hi hflt]
    exact .faulted hflt
  | false =>
    cases i with
    | wrbit val =>
      rw [writerEffect, wrbitCommand, bwFrame_unfaulted hflt]
      exact bwFinish_end _ _ hflt (shiftIn_frame _ (.refl _ _))
    | wrbits val n => exact wrbitsCommand_end val n hflt
    | wrbyte val =>
      rw [writerEffect, wrbyteCommand_eq val hflt, writeLoop_eq_shiftLoop]
      exact bwFinish_end _ _ hflt (shiftLoop_frame _ _ (.refl _ _))
    | pad =>
      rw [writerEffect, padCommand, bwFrame_unfaulted hflt]
      exact bwFinish_end _ _ hflt (padToByte_frame (.refl _ _))
    | fpad =>
      rw [writerEffect, fpadCommand, bwFrame_unfaulted hflt]
      exact bwFinish_end _ _ hflt (emit_frame (.refl _ _))
    | flush =>
      rw [writerEffect, flushCommand, bwFrame_unfaulted hflt]
      exact bwFinishFlush_end hflt (padToByte_frame (.refl _ _))
    | _ => cases hi

/-- A BW command ends with BW presenting a response or a request to the sink (R69, R83). -/
theorem WriterEnd.presents {i : Instr} {w w' : WriteSide} (h : WriterEnd i w w') :
    w'.phase.isResponding = true ∨ w'.phase.isRequesting = true := by
  cases h with
  | waits j w' hflt h => exact .inr rfl
  | _ => exact .inl rfl

theorem WriterEnd.response_wf {i : Instr} {w w' : WriteSide} {q : BwResponse} (h : WriterEnd i w w')
    (hq : w'.phase = .responding q) : q.wf := by
  cases h with
  | waits j w' hflt h => cases hq
  | failed e w' hflt he h =>
    cases hq
    exact he.response_wf
  | _ =>
    cases hq
    simp [BwResponse.wf, Err.status, Err.iocode]

/-- A response whose status is a refusal, InvalidBitWidth or EngineFaulted, is all that a BW command has done (R187). -/
theorem WriterEnd.eq_of_refused {i : Instr} {w w' : WriteSide} {q : BwResponse} (h : WriterEnd i w w')
    (hq : w'.phase = .responding q) (hst : q.status ∈ [Status.invalidBitWidth, .illegalCommand, .engineFaulted]) :
    w' = { w with phase := .responding q } := by
  cases h with
  | faulted hflt =>
    cases hq
    rfl
  | tooWide val n hflt hi hn =>
    cases hq
    simp [bwRaise, bwRespond, hflt, latchAfter, Err.latches]
  | answered w' hflt h =>
    cases hq
    simp at hst
  | waits j w' hflt h => cases hq
  | failed e w' hflt he h =>
    cases hq
    obtain rfl | ⟨c, rfl⟩ := he <;> simp [Err.status] at hst

theorem WriterEnd.tooWide_of_invalidBitWidth {i : Instr} {w w' : WriteSide} {q : BwResponse} (h : WriterEnd i w w')
    (hq : w'.phase = .responding q) (hst : q.status = .invalidBitWidth) : ∃ val n, i = .wrbits val n ∧ 128 < n := by
  cases h with
  | tooWide val n hflt hi hn => exact ⟨val, n, hi, hn⟩
  | waits j w' hflt h => cases hq
  | faulted hflt =>
    cases hq
    cases hst
  | answered w' hflt h =>
    cases hq
    cases hst
  | failed e w' hflt he h =>
    cases hq
    obtain rfl | ⟨c, rfl⟩ := he <;> cases hst

/-- Whatever way a BW command ends, it has left what R41 says it leaves, and asked the sink one request an answer. -/
structure WriteSide.Records (i : Instr) (w w' : WriteSide) : Prop where
  commands : w'.commands = w.commands
  responses : w'.responses = w.responses
  accepted : w.accepted <+: w'.accepted
  sent : ∃ new, w'.requests = w.requests ++ new ∧ w.answers = w.answers.take new.length ++ w'.answers ∧
    new.length ≤ w.answers.length ∧ (SnkRequest.flush ∈ new → i = .flush)
  drained : i ≠ .flush → w'.drained = w.drained
  wval : w'.wval = (w.latching i).wval ∨ w'.wval = w.wval

theorem latching_answers (i : Instr) (w : WriteSide) : (w.latching i).answers = w.answers := by cases i <;> rfl
theorem latching_requests (i : Instr) (w : WriteSide) : (w.latching i).requests = w.requests := by cases i <;> rfl
theorem latching_accepted (i : Instr) (w : WriteSide) : (w.latching i).accepted = w.accepted := by cases i <;> rfl
theorem latching_drained (i : Instr) (w : WriteSide) : (w.latching i).drained = w.drained := by cases i <;> rfl
theorem latching_commands (i : Instr) (w : WriteSide) : (w.latching i).commands = w.commands := by cases i <;> rfl
theorem latching_responses (i : Instr) (w : WriteSide) : (w.latching i).responses = w.responses := by cases i <;> rfl

theorem WriteSide.Records.refl (i : Instr) (w : WriteSide) : w.Records i w :=
  ⟨rfl, rfl, List.prefix_rfl, ⟨[], by simp⟩, fun _ => rfl, .inr rfl⟩

theorem WriteSide.Frame.records {i : Instr} {w w' : WriteSide} (h : (w.latching i).Frame (i = .flush) w') :
    w.Records i w' := by
  obtain ⟨new, acc, hreq, hacc, -, hans, hle, hfl⟩ := h.sent
  rw [latching_requests] at hreq
  rw [latching_accepted] at hacc
  rw [latching_answers] at hans hle
  refine ⟨h.commands.trans (latching_commands i w), h.responses.trans (latching_responses i w),
    hacc ▸ List.prefix_append _ _, ⟨new, hreq, by rw [hans, List.take_append_drop], hle, hfl⟩, fun hi => ?_,
    .inl h.wval⟩
  exact (h.drained.resolve_right fun hd => hi hd.1).trans (latching_drained i w)

/-- The end of a command writes its phase and its latch alone. -/
theorem WriteSide.Records.ended {i : Instr} {w w' : WriteSide} (h : w.Records i w') (p : BwPhase) (flt : Bool) :
    w.Records i { w' with phase := p, wflt := flt } :=
  ⟨h.commands, h.responses, h.accepted, h.sent, h.drained, h.wval⟩

theorem WriterEnd.records {i : Instr} {w w' : WriteSide} (h : WriterEnd i w w') : w.Records i w' := by
  cases h with
  | faulted hflt => exact (WriteSide.Records.refl i w).ended _ _
  | tooWide val n hflt hi hn => exact (WriteSide.Records.refl i w).ended _ _
  | answered w' hflt h => exact h.records.ended _ _
  | waits j w' hflt h => exact h.records.ended _ _
  | failed e w' hflt he h => exact h.records.ended _ _

theorem bwFinish_widx (j : BwJob) {w : WriteSide} {m : Micro Unit WriteSide}
    (hm : m.Leaves (fun w' => w'.wval = w.wval ∧ w'.widx = w.widx) fun _ => True) :
    (bwFinish j m).widx = w.widx := by
  cases m with
  | ok u w' => exact hm.2
  | blocked w' => exact hm.2
  | raise e w' => exact hm.2.2

/-- WRBIT and FPAD leave WIDX (R41). -/
theorem writerEffect_widx {i : Instr} (hi : i = .fpad ∨ ∃ val, i = .wrbit val) (w : WriteSide) :
    (writerEffect i w).widx = w.widx := by
  have hport : i.port = .bw := by obtain rfl | ⟨val, rfl⟩ := hi <;> rfl
  cases hflt : w.wflt with
  | true =>
    rw [writerEffect_faulted hport hflt]
    rfl
  | false =>
    obtain rfl | ⟨val, rfl⟩ := hi
    · rw [writerEffect, fpadCommand, bwFrame_unfaulted hflt]
      exact bwFinish_widx _ (emit_wval_widx w)
    · rw [writerEffect, wrbitCommand, bwFrame_unfaulted hflt]
      exact bwFinish_widx (w := w.latched val) _ (shiftIn_wval_widx _ _)

/-- Settles O48, by the ends of a BW command. -/
theorem writerCommandFrame : Obligations.WriterCommandFrame := by
  intro i s t hi ht
  rw [exec_bw hi] at ht
  cases ht
  have h := (writerEffect_end hi s.wr).records
  obtain ⟨new, hreq, hans, hle, hfl⟩ := h.sent
  refine ⟨rfl, rfl, h.commands, h.responses, h.accepted, ⟨new, hreq, hans, hle⟩, ?wval,
    fun hwidx => writerEffect_widx hwidx s.wr, fun hne => ⟨h.drained hne, ?flush⟩⟩
  case wval =>
    intro hpad
    have hlatching : s.wr.latching i = s.wr := by obtain rfl | rfl | rfl := hpad <;> rfl
    simpa [hlatching] using h.wval
  case flush =>
    rw [hreq, List.drop_left]
    exact mt hfl hne

end Sys2Proof.Machine
end

section
/-! What a step does with its first event, event by event, and what no step does (spec/30_encoding.md rules R82, R83, R89,
spec/20_memory.md rules R53, R58, R69, spec/70_reset_and_hazards.md rules R211 to R213, R217). -/

namespace Sys2Proof.Machine

/-! ### A word offered first -/

theorem step_brCommand {s : State} {w : CmdWord} {rest : List Event} (hi : s.inbox = .brCommand w :: rest)
    (hp : s.rd.phase = .idle) : step s = brRunWord w { s with inbox := rest, rd := brTook w s.rd } :=
  step_first hi (isIdle_iff.mpr hp)

theorem step_bwCommand {s : State} {w : CmdWord} {val : Value} {rest : List Event}
    (hi : s.inbox = .bwCommand w val :: rest) (hp : s.wr.phase = .idle) :
    step s = bwRunWord w val { s with inbox := rest, wr := bwTook w s.wr } :=
  step_first hi (isIdle_iff'.mpr hp)

theorem brRunWord_of_command {w : CmdWord} {i : Instr} (h : decodeBR w = .command i) (s : State) :
    brRunWord w s = exec i s := by
  simp only [brRunWord, h]

theorem bwRunWord_of_command {w : CmdWord} {val : Value} {i : Instr} (h : decodeBW w val = .command i) (s : State) :
    bwRunWord w val s = exec i s := by
  simp only [bwRunWord, h]

theorem brRunWord_of_illegal {w : CmdWord} (h : (decodeBR w).command? = none) (s : State) :
    brRunWord w s =
      .next { s with rd := brRefuse (if s.rd.rflt then .engineFaulted else .illegalCommand) s.rd } := by
  unfold brRunWord
  split
  case h_1 hdec => simp [hdec] at h
  case h_2 => cases hflt : s.rd.rflt <;> simp [hflt]

theorem bwRunWord_of_illegal {w : CmdWord} {val : Value} (h : (decodeBW w val).command? = none) (s : State) :
    bwRunWord w val s =
      .next { s with wr := bwRefuse (if s.wr.wflt then .engineFaulted else .illegalCommand) s.wr } := by
  unfold bwRunWord
  split
  case h_1 hdec => simp [hdec] at h
  case h_2 => cases hflt : s.wr.wflt <;> simp [hflt]

/-- What a decoder makes of a word: a command, or none. -/
theorem decoded_command_or_none (d : Decoded) : (∃ i, d = .command i) ∨ d.command? = none := by
  cases d with
  | command i => exact .inl ⟨i, rfl⟩
  | illegal why => exact .inr rfl

/-- Settles O10: the idle engine is ready for the word, and the decoder says what runs. -/
theorem stepRunsTheOfferedCommand : Obligations.StepRunsTheOfferedCommand :=
  ⟨fun _ _ _ _ hi hp hdec => (step_brCommand hi hp).trans (brRunWord_of_command hdec _),
    fun _ _ _ _ _ hi hp hdec => (step_bwCommand hi hp).trans (bwRunWord_of_command hdec _)⟩

/-- Settles O11: the word offered decodes to the command it was written for, by O2. -/
theorem offeredCommandRunsNext : Obligations.OfferedCommandRunsNext := by
  intro i s hwf
  have hdec : decodeOn (encode i).port (encode i).word (encode i).val = .command i := decode_encode hwf
  refine ⟨fun hi => ?_, fun hi => ?_⟩
  all_goals
    have hport : (encode i).port = _ := (encode_port i).trans hi
    rw [hport] at hdec
  · have hoffer : offer (encode i) s = { s with
        rd := { s.rd with phase := .idle }
        inbox := .brCommand (encode i).word :: s.inbox } := by
      simp only [offer, presents, hport]
    rw [hoffer, step_brCommand rfl rfl]
    exact brRunWord_of_command hdec _
  · have hoffer : offer (encode i) s = { s with
        wr := { s.wr with phase := .idle }
        inbox := .bwCommand (encode i).word (encode i).val :: s.inbox } := by
      simp only [offer, presents, hport]
    rw [hoffer, step_bwCommand rfl rfl]
    exact bwRunWord_of_command hdec _

/-- Settles O12: the frame refuses the word, and a refusal is a response and nothing else. -/
theorem illegalWordIsAnsweredWithoutEffect : Obligations.IllegalWordIsAnsweredWithoutEffect :=
  ⟨fun _ _ _ hi hp hdec => (step_brCommand hi hp).trans (brRunWord_of_illegal hdec _),
    fun _ _ _ _ hi hp hdec => (step_bwCommand hi hp).trans (bwRunWord_of_illegal hdec _)⟩

/-! ### Responses, requests and answers -/

/-- Settles O14. -/
theorem takenResponseFreesTheEngine : Obligations.TakenResponseFreesTheEngine := by
  constructor
  · intro s rest q hi hp
    rw [step_first hi (isResponding_iff.mpr ⟨q, hp⟩)]
    simp only [Event.apply, brResponseTaken, hp]
  · intro s rest q hi hp
    rw [step_first hi (isResponding_iff'.mpr ⟨q, hp⟩)]
    simp only [Event.apply, bwResponseTaken, hp]

theorem kReq_of_requesting {s : State} {j : BwJob} (h : s.wr.phase = .requesting j) :
    kReq s = some (bwRequest j s.wr).signals := by
  simp only [kReq, h]

/-- All jobs but the sink flush wait with a WRITE of PEND (R58). -/
theorem bwRequest_of_ne_flushSink {j : BwJob} (h : j ≠ .flushSink) (w : WriteSide) : bwRequest j w = .write w.pend := by
  cases j with
  | flushSink => exact absurd rfl h
  | _ => rfl

theorem step_srcAccept {s : State} {rest : List Event} {j : BrJob} (hi : s.inbox = .srcAccept :: rest)
    (hp : s.rd.phase = .requesting j) : step s = .next { s with inbox := rest, rd := srcAccepted s.rd } :=
  step_first hi (isRequesting_iff.mpr ⟨j, hp⟩)

theorem step_snkAccept {s : State} {rest : List Event} {j : BwJob} (hi : s.inbox = .snkAccept :: rest)
    (hp : s.wr.phase = .requesting j) : step s = .next { s with inbox := rest, wr := snkAccepted s.wr } :=
  step_first hi (isRequesting_iff'.mpr ⟨j, hp⟩)

theorem srcAccepted_of_requesting {r : ReadSide} {j : BrJob} (h : r.phase = .requesting j) :
    srcAccepted r = { r with phase := .awaiting j, fetches := r.fetches + 1 } := by
  simp only [srcAccepted, h]

theorem snkAccepted_of_requesting {w : WriteSide} {j : BwJob} (h : w.phase = .requesting j) :
    snkAccepted w = { w with phase := .awaiting j, requests := w.requests ++ [bwRequest j w] } := by
  simp only [snkAccepted, h]

/-- Settles O17: the request taken is the one the job waits with. -/
theorem takenRequestIsOutstanding : Obligations.TakenRequestIsOutstanding := by
  constructor
  · intro s rest j hi hp
    rw [step_srcAccept hi hp, srcAccepted_of_requesting hp]
  · intro s rest j hi hp
    refine ⟨bwRequest j s.wr, _, kReq_of_requesting hp, step_snkAccept hi hp, by rw [snkAccepted_of_requesting hp],
      ?_, fun hj => ?_⟩
    · rintro rfl
      exact ⟨rfl, rfl⟩
    · rw [bwRequest_of_ne_flushSink hj]
      exact ⟨rfl, rfl⟩

theorem step_srcAnswer {s : State} {rest : List Event} {j : BrJob} {a : SrcAnswer} (hi : s.inbox = .srcAnswer a :: rest)
    (hp : s.rd.phase = .awaiting j) : step s = .next { s with inbox := rest, rd := brResume j a s.rd } := by
  rw [step_first hi (isAwaiting_iff.mpr ⟨j, hp⟩)]
  simp only [Event.apply, srcAnswered, hp]

theorem step_snkAnswer {s : State} {rest : List Event} {j : BwJob} {a : SnkAnswer} (hi : s.inbox = .snkAnswer a :: rest)
    (hp : s.wr.phase = .awaiting j) : step s = .next { s with inbox := rest, wr := bwResume j a s.wr } := by
  rw [step_first hi (isAwaiting_iff'.mpr ⟨j, hp⟩)]
  simp only [Event.apply, snkAnswered, hp]

theorem refillAnswered_of_fails {a : SrcAnswer} {e : Err} (h : a.Fails e) (r : ReadSide) :
    refillAnswered a r = .raise e r := by
  obtain ⟨rfl, hr⟩ | ⟨c, rfl, hr⟩ := h <;> simp [refillAnswered, hr]

/-- A failing answer ends the command that waits, whichever it is (R69, R111). -/
theorem brResume_of_fails (j : BrJob) {a : SrcAnswer} {e : Err} (h : a.Fails e) (r : ReadSide) :
    brResume j a r = brRaise e r := by
  rw [brResume, refillAnswered_of_fails h, Micro.bind_raise, brFinish]

theorem emitAnswered_of_fails {a : SnkAnswer} {e : Err} (h : a.Fails e) (w : WriteSide) :
    emitAnswered a w = .raise e w := by
  obtain ⟨rfl, hr⟩ | ⟨c, rfl, hr⟩ := h <;> simp [emitAnswered, hr]

/-- A failing answer to a WRITE ends the command that waits, whichever it is (R69, R142). -/
theorem bwResume_of_fails {j : BwJob} (hj : j ≠ .flushSink) {a : SnkAnswer} {e : Err} (h : a.Fails e) (w : WriteSide) :
    bwResume j a w = bwRaise e w := by
  have hemit := emitAnswered_of_fails h w
  cases j with
  | flushSink => exact absurd rfl hj
  | _ => simp [bwResume, hemit, bwFinish, bwFinishFlush]

theorem brRaise_of_latches {e : Err} (h : e.latches = true) (r : ReadSide) :
    brRaise e r = { r with rflt := true, phase := .responding ⟨e.status, 0#128, e.iocode⟩ } := by
  simp [brRaise, brRespond, latchAfter, h]

theorem bwRaise_of_latches {e : Err} (h : e.latches = true) (w : WriteSide) :
    bwRaise e w = { w with wflt := true, phase := .responding ⟨e.status, e.iocode⟩ } := by
  simp [bwRaise, bwRespond, latchAfter, h]

/-- Settles O59: the answer goes to the command that waits; a failing one raises its own error, and latches it. -/
theorem presentedAnswerIsTaken : Obligations.PresentedAnswerIsTaken := by
  constructor
  · intro s rest j a hi hp
    have hstep := step_srcAnswer hi hp
    have hfails : ∀ e, a.Fails e → step s = .next { s with
        inbox := rest
        rd := { s.rd with rflt := true, phase := .responding ⟨e.status, 0#128, e.iocode⟩ } } := by
      intro e he
      rw [hstep, brResume_of_fails j he, brRaise_of_latches he.ofSource.latches]
    exact ⟨hstep, fun hr => hfails _ (.inl ⟨rfl, hr⟩), fun c hr => hfails _ (.inr ⟨c, rfl, hr⟩)⟩
  · intro s rest j a hi hp
    have hstep := step_snkAnswer hi hp
    have hfails : j ≠ .flushSink → ∀ e, a.Fails e → step s = .next { s with
        inbox := rest
        wr := { s.wr with wflt := true, phase := .responding ⟨e.status, e.iocode⟩ } } := by
      intro hj e he
      rw [hstep, bwResume_of_fails hj he, bwRaise_of_latches he.ofSink.latches]
    refine ⟨hstep, fun hj hr => hfails hj _ (.inl ⟨rfl, hr⟩), fun hj c hr => hfails hj _ (.inr ⟨c, rfl, hr⟩), ?_⟩
    rintro rfl c hr
    rw [hstep, bwResume, flushAnswered]
    simp only [hr, bwFinish]
    rw [bwRaise_of_latches rfl]
    rfl

/-! ### Reset -/

/-- Settles O7: the reset edge is always seen, and an idle engine is put back by it. -/
theorem resetOfIdleEngine : Obligations.ResetOfIdleEngine := by
  constructor
  · intro s rest hi hp
    have hstep : step s = .next { s with inbox := rest, rd := brReset s.rd } := by
      rw [step_first hi rfl]
      exact if_pos (isIdle_iff.mpr hp)
    exact ⟨_, hstep, rfl, rfl, rfl, rfl, rfl, rfl, rfl, rfl, rfl, rfl, rfl⟩
  · intro s rest hi hp
    have hstep : step s = .next { s with inbox := rest, wr := bwReset s.wr } := by
      rw [step_first hi rfl]
      exact if_pos (isIdle_iff'.mpr hp)
    exact ⟨_, hstep, rfl, rfl, rfl, rfl, rfl, rfl, rfl, rfl, rfl, rfl, rfl, rfl⟩

/-- Settles O8. -/
theorem resetInMidCommandIsRefused : Obligations.ResetInMidCommandIsRefused := by
  constructor
  · intro s rest hi hp
    rw [step_first hi rfl]
    exact if_neg (mt isIdle_iff.mp hp)
  · intro s rest hi hp
    rw [step_first hi rfl]
    exact if_neg (mt isIdle_iff'.mp hp)

/-! ### What no step does -/

/-- A step moves one engine at most (R3, R81). -/
theorem step_keeps_one_engine {s t : State} (h : step s = .next t) : t.rd = s.rd ∨ t.wr = s.wr := by
  obtain ⟨e, a, b, -, -, happly⟩ := step_next h
  cases e with
  | brCommand w =>
    obtain ⟨i, hdec⟩ | hdec := decoded_command_or_none (decodeBR w)
    · rw [Event.apply, brTakeWord, brRunWord_of_command hdec, exec_br (decodeBR_port hdec)] at happly
      cases happly
      exact .inr rfl
    · rw [Event.apply, brTakeWord, brRunWord_of_illegal hdec] at happly
      cases happly
      exact .inr rfl
  | bwCommand w val =>
    obtain ⟨i, hdec⟩ | hdec := decoded_command_or_none (decodeBW w val)
    · rw [Event.apply, bwTakeWord, bwRunWord_of_command hdec, exec_bw (decodeBW_port hdec)] at happly
      cases happly
      exact .inl rfl
    · rw [Event.apply, bwTakeWord, bwRunWord_of_illegal hdec] at happly
      cases happly
      exact .inl rfl
  | brReset =>
    rw [Event.apply, brResetEdge] at happly
    split at happly <;> cases happly
    exact .inr rfl
  | bwReset =>
    rw [Event.apply, bwResetEdge] at happly
    split at happly <;> cases happly
    exact .inl rfl
  | brTake | srcAccept | srcAnswer a =>
    cases happly
    exact .inr rfl
  | bwTake | snkAccept | snkAnswer a =>
    cases happly
    exact .inl rfl

/-- A command leaves a set RFLT set (R189). -/
theorem readerEffect_rflt_of_faulted (i : Instr) {r : ReadSide} (h : r.rflt = true) : (readerEffect i r).rflt = true := by
  cases hi : i.port with
  | br => rw [readerEffect_faulted hi h, brRefuse_rflt, h]
  | bw => rw [readerEffect_of_bw hi, h]

/-- A command leaves a set WFLT set (R189). -/
theorem writerEffect_wflt_of_faulted (i : Instr) {w : WriteSide} (h : w.wflt = true) :
    (writerEffect i w).wflt = true := by
  cases hi : i.port with
  | br => rw [writerEffect_of_br hi, h]
  | bw => rw [writerEffect_faulted hi h, bwRefuse_wflt, h]

theorem Micro.Leaves.mono {α σ : Type} {P P' : σ → Prop} {p p' : Err → Prop} {m : Micro α σ} (hm : m.Leaves P p)
    (hP : ∀ s, P s → P' s) (hp : ∀ e, p e → p' e) : m.Leaves P' p' := by
  cases m with
  | ok a s => exact hP s hm
  | blocked s => exact hP s hm
  | raise e s => exact ⟨hp e hm.1, hP s hm.2⟩

/-- An answer that comes late is no fetch. -/
theorem refillAnswered_frame (a : SrcAnswer) {r₀ r : ReadSide} (h : r₀.Frame r) :
    (refillAnswered a r).Leaves r₀.Frame Err.OfSource := by
  unfold refillAnswered
  split
  · exact ⟨h.rflt, h.commands, h.responses, h.fetched, h.taken.trans (List.prefix_append _ _)⟩
  · exact ⟨.inl rfl, h⟩
  · exact ⟨.inr ⟨_, rfl⟩, h⟩

theorem brResume_rest_frame (j : BrJob) (a : SrcAnswer) {r₀ r : ReadSide} (h : r₀.Frame r) :
    ((refillAnswered a r).bind fun _ r' => brRest j r').Leaves r₀.Frame Err.OfSource :=
  (refillAnswered_frame a h).bind fun _ _ h' => brRest_frame j h'

theorem brResume_rflt_of_faulted (j : BrJob) (a : SrcAnswer) {r : ReadSide} (h : r.rflt = true) :
    (brResume j a r).rflt = true := by
  have hm := brResume_rest_frame j a (.refl r)
  rw [brResume]
  cases hrest : (refillAnswered a r).bind fun _ r' => brRest j r' with
  | ok d r' =>
    rw [hrest] at hm
    exact hm.rflt.trans h
  | blocked r' =>
    rw [hrest] at hm
    exact hm.rflt.trans h
  | raise e r' =>
    rw [hrest] at hm
    simp [brFinish, hm.2.rflt, h]

/-- However it ends, WFLT is still set. -/
abbrev Micro.LeavesWfltSet (m : Micro Unit WriteSide) : Prop := m.Leaves (fun w => w.wflt = true) fun _ => True

theorem leavesWfltSet_of_frame {fl : Prop} {w : WriteSide} {m : Micro Unit WriteSide} (h : w.wflt = true)
    (hm : m.Leaves (w.Frame fl) Err.OfSink) : m.LeavesWfltSet :=
  hm.mono (fun _ hw => hw.wflt.trans h) fun _ _ => trivial

theorem emitAnswered_leavesWfltSet (a : SnkAnswer) {w : WriteSide} (h : w.wflt = true) :
    (emitAnswered a w).LeavesWfltSet := by
  unfold emitAnswered
  split
  · exact h
  · exact ⟨trivial, h⟩
  · exact ⟨trivial, h⟩

theorem flushAnswered_leavesWfltSet (a : SnkAnswer) {w : WriteSide} (h : w.wflt = true) :
    (flushAnswered a w).LeavesWfltSet := by
  unfold flushAnswered
  split
  · exact h
  · exact ⟨trivial, h⟩

theorem bwFinish_wflt_of_faulted (j : BwJob) {m : Micro Unit WriteSide} (hm : m.LeavesWfltSet) :
    (bwFinish j m).wflt = true := by
  cases m with
  | ok u w => exact hm
  | blocked w => exact hm
  | raise e w => simp [bwFinish, show w.wflt = true from hm.2]

theorem bwFinishFlush_wflt_of_faulted {m : Micro Unit WriteSide} (hm : m.LeavesWfltSet) :
    (bwFinishFlush m).wflt = true := by
  cases m with
  | ok u w => exact bwFinish_wflt_of_faulted _ (leavesWfltSet_of_frame hm (sinkFlush_frame (.refl _ w)))
  | blocked w => exact hm
  | raise e w => simp [bwFinishFlush, show w.wflt = true from hm.2]

theorem shiftLoop_leavesWfltSet (bit : Nat → Bool) (k : Nat) {w : WriteSide} (h : w.wflt = true) :
    (shiftLoop bit k w).LeavesWfltSet :=
  leavesWfltSet_of_frame (fl := False) h (shiftLoop_frame bit k (.refl _ w))

theorem bwResume_wflt_of_faulted (j : BwJob) (a : SnkAnswer) {w : WriteSide} (h : w.wflt = true) :
    (bwResume j a w).wflt = true := by
  have hemit := emitAnswered_leavesWfltSet a h
  cases j with
  | wrbit | fpad => exact bwFinish_wflt_of_faulted _ hemit
  | wrbits | wrbyte =>
    refine bwFinish_wflt_of_faulted _ (hemit.bind fun _ w' h' => ?_)
    rw [writeLoop_eq_shiftLoop]
    exact shiftLoop_leavesWfltSet _ _ h'
  | pad =>
    refine bwFinish_wflt_of_faulted _ (hemit.bind fun _ w' h' => ?_)
    rw [padLoop_eq_shiftLoop]
    exact shiftLoop_leavesWfltSet _ _ h'
  | flushPad =>
    refine bwFinishFlush_wflt_of_faulted (hemit.bind fun _ w' h' => ?_)
    rw [padLoop_eq_shiftLoop]
    exact shiftLoop_leavesWfltSet _ _ h'
  | flushSink => exact bwFinish_wflt_of_faulted _ (flushAnswered_leavesWfltSet a h)

/-- A set RFLT survives every move of BR but its reset. -/
theorem ReaderMove.rflt_or_reset {s : State} {r : ReadSide} (h : ReaderMove s r) (hflt : s.rd.rflt = true) :
    r.rflt = true ∨ (Event.brReset ∈ s.inbox ∧ s.rd.phase = .idle ∧ r = brReset s.rd) := by
  cases h with
  | stay | taken q hp h | accepted j hp h => exact .inl hflt
  | command w i h hp => exact .inl (readerEffect_rflt_of_faulted i hflt)
  | illegal w h hp => exact .inl (by rw [brFrame_faulted (r := brTook w s.rd) hflt, brRefuse_rflt, brTook_rflt, hflt])
  | answered j a hp h => exact .inl (brResume_rflt_of_faulted j a hflt)
  | reset hp h => exact .inr ⟨h, hp, rfl⟩

/-- A set WFLT survives every move of BW but its reset. -/
theorem WriterMove.wflt_or_reset {s : State} {w : WriteSide} (h : WriterMove s w) (hflt : s.wr.wflt = true) :
    w.wflt = true ∨ (Event.bwReset ∈ s.inbox ∧ s.wr.phase = .idle ∧ w = bwReset s.wr) := by
  cases h with
  | stay | taken q hp h | accepted j hp h => exact .inl hflt
  | command c val i h hp => exact .inl (writerEffect_wflt_of_faulted i hflt)
  | illegal c val h hp =>
    exact .inl (by rw [bwFrame_faulted (w := bwTook c s.wr) hflt, bwRefuse_wflt, bwTook_wflt, hflt])
  | answered j a hp h => exact .inl (bwResume_wflt_of_faulted j a hflt)
  | reset hp h => exact .inr ⟨h, hp, rfl⟩

/-- Settles O9: every move but the reset keeps a set latch, and the step that resets one engine leaves the other. -/
theorem onlyResetClearsALatch : Obligations.OnlyResetClearsALatch := by
  intro s t h
  obtain ⟨-, -, -, -, -, -, hrd, hwr⟩ := step_moves h
  refine ⟨fun hflt => (hrd.rflt_or_reset hflt).imp_right ?_, fun hflt => (hwr.wflt_or_reset hflt).imp_right ?_⟩
  · rintro ⟨hmem, hp, hreset⟩
    refine ⟨hmem, hp, hreset, (step_keeps_one_engine h).resolve_left fun hkept => ?_⟩
    have hclear : s.rd.rflt = false := congrArg ReadSide.rflt (hkept.symm.trans hreset)
    simp [hflt] at hclear
  · rintro ⟨hmem, hp, hreset⟩
    refine ⟨hmem, hp, hreset, (step_keeps_one_engine h).resolve_right fun hkept => ?_⟩
    have hclear : s.wr.wflt = false := congrArg WriteSide.wflt (hkept.symm.trans hreset)
    simp [hflt] at hclear

theorem filter_eq_of_not {p : Event → Bool} {l a b : List Event} {e : Event} (hl : l = a ++ e :: b) (he : p e = false) :
    (a ++ b).filter p = l.filter p := by
  simp [hl, he]

/-- Settles O13: the event a step takes is ready, and a busy engine is not ready for a command. -/
theorem busyEngineTakesNoCommand : Obligations.BusyEngineTakesNoCommand := by
  intro s t h
  obtain ⟨e, a, b, hinbox, hready, hrest, -, -⟩ := step_moves h
  rw [hrest]
  refine ⟨fun hbusy => filter_eq_of_not hinbox ?_, fun hbusy => filter_eq_of_not hinbox ?_⟩
  · cases e with
    | brCommand w => exact absurd (isIdle_iff.mp hready) hbusy
    | _ => rfl
  · cases e with
    | bwCommand w val => exact absurd (isIdle_iff'.mp hready) hbusy
    | _ => rfl

/-- Settles O15: the one move of a waiting engine is to take an answer. -/
theorem waitingEngineIsStuckUntilAnswered : Obligations.WaitingEngineIsStuckUntilAnswered := by
  intro s t h
  obtain ⟨-, -, -, -, -, -, hrd, hwr⟩ := step_moves h
  have hone := step_keeps_one_engine h
  constructor
  · intro j hp
    refine or_iff_not_imp_left.mpr fun hmoved => ?_
    generalize hr : t.rd = r at hrd hmoved
    cases hrd with
    | stay => exact absurd rfl hmoved
    | answered j' a hp' hmem => 
      refine ⟨a, hmem, by simp only [srcAnswered, hp'], hone.resolve_left (hr ▸ hmoved)⟩
    | command w i h hp' | illegal w h hp' | taken q hp' h | accepted j hp' h | reset hp' h => simp [hp] at hp'
  · intro j hp
    refine or_iff_not_imp_left.mpr fun hmoved => ?_
    generalize hw : t.wr = w at hwr hmoved
    cases hwr with
    | stay => exact absurd rfl hmoved
    | answered j' a hp' hmem => 
      refine ⟨a, hmem, by simp only [snkAnswered, hp'], hone.resolve_right (hw ▸ hmoved)⟩
    | command c val i h hp' | illegal c val h hp' | taken q hp' h | accepted j hp' h | reset hp' h => simp [hp] at hp'

/-- Settles O16: the one move of an engine that presents something is that it is taken. -/
theorem presentedPayloadIsHeld : Obligations.PresentedPayloadIsHeld := by
  intro s t h
  obtain ⟨-, -, -, -, -, -, hrd, hwr⟩ := step_moves h
  generalize t.rd = r at hrd
  refine ⟨fun q hp => ?_, fun j hp => ?_, fun q hp => ?_, fun j hp => ?_⟩
  · cases hrd with
    | stay => exact .inl rfl
    | taken q' hp' hmem =>
      rw [hp] at hp'
      cases hp'
      exact .inr ⟨hmem, rfl⟩
    | command w i h hp' | illegal w h hp' | accepted j hp' h | answered j a hp' h | reset hp' h => simp [hp] at hp'
  · cases hrd with
    | stay => exact .inl rfl
    | accepted j' hp' hmem =>
      rw [hp] at hp'
      cases hp'
      exact .inr ⟨hmem, rfl⟩
    | command w i h hp' | illegal w h hp' | taken q hp' h | answered j a hp' h | reset hp' h => simp [hp] at hp'
  · generalize t.wr = w at hwr
    cases hwr with
    | stay => exact .inl rfl
    | taken q' hp' hmem =>
      rw [hp] at hp'
      cases hp'
      exact .inr ⟨hmem, rfl⟩
    | command c val i h hp' | illegal c val h hp' | accepted j hp' h | answered j a hp' h | reset hp' h =>
      simp [hp] at hp'
  · generalize hw : t.wr = w at hwr
    cases hwr with
    | stay => exact .inl ⟨rfl, by simp only [kReq, hw]⟩
    | accepted j' hp' hmem =>
      rw [hp] at hp'
      cases hp'
      exact .inr ⟨hmem, bwRequest j s.wr, kReq_of_requesting hp, rfl⟩
    | command c val i h hp' | illegal c val h hp' | taken q hp' h | answered j a hp' h | reset hp' h =>
      simp [hp] at hp'

/-- Where no event is ready and an engine is idle, no command for it is presented. -/
theorem no_brCommand_of_idle {s : State} (hready : ∀ e ∈ s.inbox, e.ready s = false) (hp : s.rd.phase = .idle)
    (w : CmdWord) : Event.brCommand w ∉ s.inbox := fun hmem => by
  simpa [Event.ready, hp, BrPhase.isIdle] using hready _ hmem

theorem no_bwCommand_of_idle {s : State} (hready : ∀ e ∈ s.inbox, e.ready s = false) (hp : s.wr.phase = .idle)
    (w : CmdWord) (val : Value) : Event.bwCommand w val ∉ s.inbox := fun hmem => by
  simpa [Event.ready, hp, BwPhase.isIdle] using hready _ hmem

/-- Where no event is ready, the runs are over exactly if the engines are idle (R217). -/
theorem runsOver_iff_idle {s : State} (hready : ∀ e ∈ s.inbox, e.ready s = false) :
    (brRunOver s = true ∧ bwRunOver s = true) ↔ (s.rd.phase = .idle ∧ s.wr.phase = .idle) := by
  simp only [brRunOver, bwRunOver, Bool.and_eq_true, isIdle_iff, isIdle_iff', Bool.not_eq_true']
  constructor
  · rintro ⟨⟨hrd, -⟩, hwr, -⟩
    exact ⟨hrd, hwr⟩
  · rintro ⟨hrd, hwr⟩
    exact ⟨⟨hrd, brCommandAhead_eq_false (no_brCommand_of_idle hready hrd)⟩,
      hwr, bwCommandAhead_eq_false (no_bwCommand_of_idle hready hwr)⟩

/-- Settles O18: a step stops exactly where no event is ready, and there the name of the stop is read off the phases. -/
theorem noStepExactlyWhenNothingIsReady : Obligations.NoStepExactlyWhenNothingIsReady := by
  intro s
  have hover : step s = .fault .runOver ↔
      (∀ e ∈ s.inbox, e.ready s = false) ∧ s.rd.phase = .idle ∧ s.wr.phase = .idle := by
    rw [step_fault_iff, eq_comm, stopReason_runOver_iff]
    exact and_congr_right runsOver_iff_idle
  refine ⟨hover, ?awaiting, ?ended⟩
  case awaiting =>
    rw [step_fault_iff, eq_comm, stopReason_awaiting_iff]
    exact and_congr_right fun hready => not_congr (runsOver_iff_idle hready)
  case ended =>
    intro h
    obtain ⟨hready, hrd, hwr⟩ := hover.mp h
    obtain ⟨hbr, hbw⟩ := (runsOver_iff_idle hready).mpr ⟨hrd, hwr⟩
    exact ⟨hbr, hbw, no_brCommand_of_idle hready hrd, no_bwCommand_of_idle hready hwr⟩

end Sys2Proof.Machine
end

section
/-! Statuses, refusals and responses, and that the engines share nothing (spec/60_exceptions.md rules R180 to R191,
spec/00_scope.md rule R3). -/

namespace Sys2Proof.Machine

/-- Settles O20. -/
theorem statusCodesOfTheTable : Obligations.StatusCodesOfTheTable := by
  refine ⟨rfl, rfl, rfl, rfl, rfl, rfl, rfl, fun st => ?_⟩
  cases st <;> decide

/-! ### A faulted engine -/

/-- A faulted BR answers EngineFaulted to any word (R185, R189). -/
theorem brRunWord_of_faulted (w : CmdWord) {s : State} (h : s.rd.rflt = true) :
    brRunWord w s = .next { s with rd := brRefuse .engineFaulted s.rd } := by
  obtain ⟨i, hdec⟩ | hdec := decoded_command_or_none (decodeBR w)
  · have hi := decodeBR_port hdec
    rw [brRunWord_of_command hdec, exec_br hi, readerEffect_faulted hi h]
  · rw [brRunWord_of_illegal hdec, if_pos h]

/-- A faulted BW answers EngineFaulted to any word (R185, R189). -/
theorem bwRunWord_of_faulted (w : CmdWord) (val : Value) {s : State} (h : s.wr.wflt = true) :
    bwRunWord w val s = .next { s with wr := bwRefuse .engineFaulted s.wr } := by
  obtain ⟨i, hdec⟩ | hdec := decoded_command_or_none (decodeBW w val)
  · have hi := decodeBW_port hdec
    rw [bwRunWord_of_command hdec, exec_bw hi, writerEffect_faulted hi h]
  · rw [bwRunWord_of_illegal hdec, if_pos h]

/-- Settles O21: the frame of every command, and of every word, refuses. -/
theorem faultedEngineDoesNothingElse : Obligations.FaultedEngineDoesNothingElse := by
  intro i s
  refine ⟨fun hi hflt => ?_, fun hi hflt => ?_, fun w rest hinbox hp hflt => ?_, fun w val rest hinbox hp hflt => ?_⟩
  · rw [exec_br hi, readerEffect_faulted hi hflt]
    rfl
  · rw [exec_bw hi, writerEffect_faulted hi hflt]
    rfl
  · exact (step_brCommand hinbox hp).trans (brRunWord_of_faulted w hflt)
  · exact (step_bwCommand hinbox hp).trans (bwRunWord_of_faulted w val hflt)

/-! ### Refused widths and words -/

theorem rdbitsCommand_of_tooWide {r : ReadSide} {n : Nat} (hflt : r.rflt = false) (hn : 128 < n) :
    rdbitsCommand n r = { r with phase := .responding ⟨.invalidBitWidth, 0#128, 0#Config.iocodeW⟩ } := by
  rw [rdbitsCommand, brFrame_unfaulted hflt, if_pos ((tooWide_iff n).mpr hn)]
  simp [brRaise, brRespond, hflt, latchAfter, Err.latches, Err.status, Err.iocode]

theorem wrbitsCommand_of_tooWide (val : Value) {w : WriteSide} {n : Nat} (hflt : w.wflt = false) (hn : 128 < n) :
    wrbitsCommand val n w = { w with phase := .responding ⟨.invalidBitWidth, 0#Config.iocodeW⟩ } := by
  rw [wrbitsCommand, bwFrame_unfaulted hflt, if_pos ((tooWide_iff n).mpr hn)]
  simp [bwRaise, bwRespond, hflt, latchAfter, Err.latches, Err.status, Err.iocode]

/-- Settles O22: the width check comes before everything, and no other end of a command has its status. -/
theorem tooWideCountIsRefused : Obligations.TooWideCountIsRefused := by
  refine ⟨fun n s hn hflt => ?_, fun v n s hn hflt => ?_, fun i s t q hi ht hq hst => ?_, fun i s t q hi ht hq hst => ?_⟩
  · rw [exec_br rfl, readerEffect, rdbitsCommand_of_tooWide hflt hn]
  · rw [exec_bw rfl, writerEffect, wrbitsCommand_of_tooWide v hflt hn]
  · rw [exec_br hi] at ht
    cases ht
    exact (readerEffect_end hi s.rd).tooWide_of_invalidBitWidth hq hst
  · rw [exec_bw hi] at ht
    cases ht
    exact (writerEffect_end hi s.wr).tooWide_of_invalidBitWidth hq hst

/-- Settles O23, by the ends of a command for a legal word, and by the refusal of an illegal one. -/
theorem refusedCommandHasNoEffect : Obligations.RefusedCommandHasNoEffect := by
  constructor
  · intro s t w rest q hinbox hp ht hq hst
    rw [step_brCommand hinbox hp] at ht
    obtain ⟨i, hdec⟩ | hdec := decoded_command_or_none (decodeBR w)
    · rw [brRunWord_of_command hdec, exec_br (decodeBR_port hdec)] at ht
      cases ht
      have heq := (readerEffect_end (decodeBR_port hdec) _).eq_of_refused hq hst
      exact congrArg (fun r => { s with inbox := rest, rd := r }) heq
    · rw [brRunWord_of_illegal hdec] at ht
      cases ht
      cases hq
      rfl
  · intro s t w val rest q hinbox hp ht hq hst
    rw [step_bwCommand hinbox hp] at ht
    obtain ⟨i, hdec⟩ | hdec := decoded_command_or_none (decodeBW w val)
    · rw [bwRunWord_of_command hdec, exec_bw (decodeBW_port hdec)] at ht
      cases ht
      have heq := (writerEffect_end (decodeBW_port hdec) _).eq_of_refused hq hst
      exact congrArg (fun w => { s with inbox := rest, wr := w }) heq
    · rw [bwRunWord_of_illegal hdec] at ht
      cases ht
      cases hq
      rfl

/-! ### Responses, and the two engines -/

/-- Settles O25, by the ends of a command. -/
theorem responsesHaveTheStatedForm : Obligations.ResponsesHaveTheStatedForm := by
  intro i s t ht
  rw [exec_eq] at ht
  cases ht
  exact ⟨fun q hi hq => (readerEffect_end hi s.rd).response_wf hq,
    fun q hi hq => (writerEffect_end hi s.wr).response_wf hq⟩

/-- Settles O52: a command is an effect on its own engine alone. -/
theorem enginesDoNotInterfere : Obligations.EnginesDoNotInterfere := by
  intro i s s' t t' ht ht'
  rw [exec_eq] at ht ht'
  cases ht
  cases ht'
  exact ⟨fun hi hrd => ⟨congrArg (readerEffect i) hrd, writerEffect_of_br hi _, writerEffect_of_br hi _⟩,
    fun hi hwr => ⟨congrArg (writerEffect i) hwr, readerEffect_of_bw hi _, readerEffect_of_bw hi _⟩⟩

end Sys2Proof.Machine
end

section
/-! The invariant of BR is kept by every step (spec/10_state.md rules R23 to R26, spec/40_reader.md rules R111 to R117,
spec/60_exceptions.md rules R188, R189). -/

namespace Sys2Proof.Machine

theorem Micro.Ends.and_leaves {α σ : Type} {m : Micro α σ} {Q : α → σ → Prop} {B P : σ → Prop} {E : Err → σ → Prop}
    {p : Err → Prop} (h : m.Ends Q B E) (h' : m.Leaves P p) :
    m.Ends (fun a s => Q a s ∧ P s) (fun s => B s ∧ P s) (fun e s => E e s ∧ p e ∧ P s) := by
  cases m with
  | ok a s => exact ⟨h, h'⟩
  | blocked s => exact ⟨h, h'⟩
  | raise e s => exact ⟨h, h'⟩

/-! ### The lookahead, also between REFILL and EXTRACT -/

/-- The lookahead of R23 and R24, with ROFF = 0 between a REFILL and its EXTRACT. -/
structure ReadSide.Tracks (r : ReadSide) : Prop where
  roff_le : r.roff.toNat ≤ 8
  cur_of_none : r.taken = [] → r.cur = 0#8 ∧ r.roff = 8#4
  cur_of_last : ∀ b, r.taken.getLast? = some b → r.cur = b <<< r.roff.toNat

theorem lookaheadInv_iff_tracks {r : ReadSide} : r.lookaheadInv ↔ 1 ≤ r.roff.toNat ∧ r.Tracks := by
  unfold ReadSide.lookaheadInv
  cases hlast : r.taken.getLast? with
  | none =>
    have hnil := List.getLast?_eq_none_iff.mp hlast
    exact ⟨fun ⟨hpos, hle, hcur⟩ => ⟨hpos, hle, fun _ => hcur, by simp [hlast]⟩,
      fun ⟨hpos, h⟩ => ⟨hpos, h.roff_le, h.cur_of_none hnil⟩⟩
  | some b =>
    have hne : r.taken ≠ [] := by
      rintro hnil
      simp [hnil] at hlast
    exact ⟨fun ⟨hpos, hle, hcur⟩ => ⟨hpos, hle, fun hnil => absurd hnil hne, by simpa [hlast] using hcur⟩,
      fun ⟨hpos, h⟩ => ⟨hpos, h.roff_le, h.cur_of_last b hlast⟩⟩

/-- REFILL with a byte: it is all unread (R111). -/
theorem tracks_of_loaded {r : ReadSide} {b : Byte} {bs : List Byte} (hcur : r.cur = b) (hroff : r.roff = 0#4)
    (htaken : r.taken = bs ++ [b]) : r.Tracks :=
  ⟨by simp [hroff], by simp [htaken], by simp [htaken, hcur, hroff]⟩

/-- EXTRACT leaves the lookahead of R23 (R112). -/
theorem ReadSide.Tracks.extracted {r : ReadSide} (h : r.Tracks) (hne : r.roff ≠ 8#4) :
    { r with cur := r.cur <<< 1, roff := r.roff + 1#4 }.lookaheadInv := by
  have hsucc := toNat_offset_succ (toNat_lt_eight_of_ne h.roff_le hne)
  have hlt := toNat_lt_eight_of_ne h.roff_le hne
  refine lookaheadInv_iff_tracks.mpr ⟨by simp only [hsucc]; omega, by simp only [hsucc]; omega,
    fun hnil => absurd (h.cur_of_none hnil).2 hne, fun b hb => ?_⟩
  simp only [hsucc, h.cur_of_last b hb, BitVec.shiftLeft_add]

/-- READBIT leaves the lookahead of R23, and waits only where it is exhausted (R113). -/
theorem readBit_lookaheadInv {r : ReadSide} (h : r.Tracks) :
    (readBit r).Ends (fun _ r' => r'.lookaheadInv) (fun r' => r' = r ∧ r.roff = 8#4 ∧ r.answers = [])
      fun _ _ => True := by
  obtain ⟨hne, hr⟩ | ⟨h8, hans, hr⟩ | ⟨a, rest, b, -, -, -, hr⟩ | ⟨a, rest, e, -, -, -, hr⟩ := readBit_cases r
  all_goals rw [hr]
  · rw [shiftInBit_false]
    exact h.extracted hne
  · exact ⟨rfl, h8, hans⟩
  · rw [shiftInBit_false]
    have hloaded : (r.loaded b).Tracks := tracks_of_loaded rfl rfl rfl
    exact hloaded.extracted (by simp [ReadSide.loaded])
  · trivial

/-! ### A loop of reads -/

/-- BR in the middle of reading `n` bits, `k` of them still to come (R116, R117). -/
structure ReadSide.Reading (n k : Nat) (r : ReadSide) : Prop where
  tracks : r.Tracks
  roff_pos : k = 0 → 1 ≤ r.roff.toNat
  bcnt : r.bcnt.toNat = k
  le : k ≤ n
  width : n ≤ 128
  acc : r.acc.toNat < 2 ^ (n - k)

/-- A bit read goes into ACC and off BCNT. -/
theorem ReadSide.Reading.next {n k : Nat} {r r' : ReadSide} (h : r.Reading n (k + 1)) (b : Bool)
    (hlook : r'.lookaheadInv) (hacc : r'.acc = r.acc) (hbcnt : r'.bcnt = r.bcnt) :
    { r' with acc := shiftInBit 128 r'.acc b, bcnt := r'.bcnt - 1#8 }.Reading n k := by
  obtain ⟨hpos, htracks⟩ := lookaheadInv_iff_tracks.mp hlook
  have hbit := Bool.toNat_lt b
  have hle := h.le
  have hlt := h.acc
  have hcount := h.bcnt
  refine ⟨⟨htracks.roff_le, htracks.cur_of_none, htracks.cur_of_last⟩, fun _ => hpos, ?_, by omega, h.width, ?_⟩
  · simp only [hbcnt]
    bv_omega
  · have hpow : 2 ^ (n - k) = 2 * 2 ^ (n - (k + 1)) := by
      rw [show n - k = n - (k + 1) + 1 by omega, Nat.pow_succ']
    simp only [hacc]
    rw [toNat_shiftInBit 128 _ _ (by decide)]
    exact (Nat.mod_le _ _).trans_lt (by omega)

theorem readLoop_reading {n : Nat} (k : Nat) {r : ReadSide} (h : r.Reading n k) :
    (readLoop k r).Ends (fun _ r' => r'.lookaheadInv)
      (fun r' => r'.roff = 8#4 ∧ r'.answers = [] ∧ ∃ k', r'.Reading n (k' + 1)) fun _ _ => True := by
  induction k generalizing r with
  | zero => exact lookaheadInv_iff_tracks.mpr ⟨h.roff_pos rfl, h.tracks⟩
  | succ k ih =>
    have hbit := (readBit_lookaheadInv h.tracks).and_leaves (readBit_acc_bcnt r)
    rw [readLoop_succ]
    refine Micro.Ends.bind (hbit.mono (fun _ _ hQ => hQ) ?_ fun _ _ _ => trivial)
      fun b r' ⟨hlook, hacc, hbcnt⟩ => ih (h.next b hlook hacc hbcnt)
    rintro r' ⟨⟨rfl, h8, hans⟩, -⟩
    exact ⟨h8, hans, k, h⟩

/-! ### The rest of a command -/

/-- BR in the middle of the command `j`, also between REFILL and EXTRACT. -/
def ReadSide.Under (r : ReadSide) : BrJob → Prop
  | .rdbit => r.Tracks
  | .rdbits => r.Reading r.countAsked r.bcnt.toNat
  | .rdbyte => r.Reading 8 r.bcnt.toNat

/-- What a BR command waits with (R111, R113). -/
structure ReadSide.Waiting (r : ReadSide) (j : BrJob) : Prop where
  look : r.lookaheadInv
  roff : r.roff = 8#4
  answers : r.answers = []
  job : r.jobInv j

theorem ReadSide.Frame.countAsked {r r' : ReadSide} (h : r.Frame r') : r'.countAsked = r.countAsked := by
  simp only [ReadSide.countAsked, h.commands]

theorem ReadSide.Reading.lookaheadInv {n k : Nat} {r : ReadSide} (h : r.Reading n k) (h8 : r.roff = 8#4) :
    r.lookaheadInv :=
  lookaheadInv_iff_tracks.mpr ⟨by simp [h8], h.tracks⟩

theorem brRest_ends (j : BrJob) {r : ReadSide} (h : r.Under j) :
    (brRest j r).Ends (fun _ r' => r'.lookaheadInv ∧ r.Frame r') (fun r' => r'.Waiting j ∧ r.Frame r')
      fun e r' => e.OfSource ∧ r.Frame r' := by
  cases j with
  | rdbit =>
    have hbit := (readBit_lookaheadInv h).and_leaves (readBit_frame (.refl r))
    refine Micro.Ends.bind (hbit.mono (fun _ _ hQ => hQ) ?_ fun _ _ hE => hE.2) fun _ _ hQ => hQ
    rintro r' ⟨⟨rfl, h8, hans⟩, hframe⟩
    exact ⟨⟨lookaheadInv_iff_tracks.mpr ⟨by simp [h8], h⟩, h8, hans, trivial⟩, hframe⟩
  | rdbits =>
    have hloop := (readLoop_reading _ h).and_leaves (readLoop_frame _ (.refl r))
    refine Micro.Ends.bind (hloop.mono (fun _ _ hQ => hQ) ?_ fun _ _ hE => hE.2) fun _ _ hQ => hQ
    rintro r' ⟨⟨h8, hans, k', hreading⟩, hframe⟩
    have hbcnt := hreading.bcnt
    have hasked := hframe.countAsked
    refine ⟨⟨hreading.lookaheadInv h8, h8, hans, by omega, ?_, ?_, ?_⟩, hframe⟩ <;> rw [hasked]
    · exact hbcnt ▸ hreading.le
    · exact hreading.width
    · exact hbcnt ▸ hreading.acc
  | rdbyte =>
    have hloop := (readLoop_reading _ h).and_leaves (readLoop_frame _ (.refl r))
    refine Micro.Ends.bind (hloop.mono (fun _ _ hQ => hQ) ?_ fun _ _ hE => hE.2) fun _ _ hQ => hQ
    rintro r' ⟨⟨h8, hans, k', hreading⟩, hframe⟩
    have hbcnt := hreading.bcnt
    exact ⟨⟨hreading.lookaheadInv h8, h8, hans, by omega, hbcnt ▸ hreading.le, hbcnt ▸ hreading.acc⟩, hframe⟩

/-- A late byte puts the command that waits in the middle of its READBIT. -/
theorem ReadSide.Waiting.loaded {r r' : ReadSide} {j : BrJob} (h : r.Waiting j) (htracks : r'.Tracks)
    (hbcnt : r'.bcnt = r.bcnt) (hacc : r'.acc = r.acc) (hcommands : r'.commands = r.commands) : r'.Under j := by
  have hasked : r'.countAsked = r.countAsked := by simp only [ReadSide.countAsked, hcommands]
  have hjob := h.job
  cases j with
  | rdbit => exact htracks
  | rdbits =>
    obtain ⟨hpos, hle, hwidth, hlt⟩ := hjob
    rw [ReadSide.Under, hasked, hbcnt]
    exact ⟨htracks, by omega, by rw [hbcnt], hle, hwidth, hacc ▸ hlt⟩
  | rdbyte =>
    obtain ⟨hpos, hle, hlt⟩ := hjob
    rw [ReadSide.Under, hbcnt]
    exact ⟨htracks, by omega, by rw [hbcnt], hle, by decide, hacc ▸ hlt⟩

/-! ### The session -/

/-- BR has taken a command that is not answered yet: the session's record without it (R26, R83, R188). -/
structure ReadSide.Open (r : ReadSide) : Prop where
  latch : r.rflt = true ↔ ∃ q ∈ r.responses, q.status ∈ [Status.unexpectedEndOfInput, .underlyingIOError]
  count : r.commands.length = r.responses.length + 1

theorem ReadSide.Frame.isOpen {r r' : ReadSide} (h : r.Frame r') (ho : r.Open) : r'.Open :=
  ⟨by rw [h.rflt, h.responses]; exact ho.latch, by rw [h.commands, h.responses]; exact ho.count⟩

/-- The invariant once a command is answered with `q`, RFLT being `flt` afterwards. -/
theorem ReadSide.Open.inv_of_responding {r : ReadSide} {q : BrResponse} {flt : Bool} (h : r.Open)
    (hlook : flt = false → r.lookaheadInv) (hwf : q.wf)
    (hstatus : flt = true ↔ q.status ∈ [Status.unexpectedEndOfInput, .underlyingIOError, .engineFaulted])
    (hlatch : flt = true ↔ r.rflt = true ∨ q.status ∈ [Status.unexpectedEndOfInput, .underlyingIOError]) :
    { r with rflt := flt, phase := .responding q }.Inv := by
  refine ⟨hlook, ⟨hwf, hstatus⟩, ?_, h.count⟩
  rw [hlatch, h.latch]
  simp only [ReadSide.answered, BrPhase.response, Option.toList_some, List.mem_append, List.mem_singleton, or_and_right,
    exists_or, exists_eq_left]

theorem ReadSide.Open.inv_of_requesting {r : ReadSide} {j : BrJob} (h : r.Open) (hflt : r.rflt = false)
    (hwait : r.Waiting j) (hopc : r.commands.getLast?.map opcField = some j.opcode.number) :
    { r with phase := .requesting j }.Inv := by
  refine ⟨fun _ => hwait.look, ⟨hflt, hwait.roff, hwait.answers, ?_⟩, ?_, h.count, hopc⟩
  · have := hwait.job
    cases j <;> exact this
  · simpa [ReadSide.answered, BrPhase.response] using h.latch

/-- However the rest of a command ends, the invariant holds then. -/
theorem brFinish_inv {j : BrJob} {r : ReadSide} {m : Micro Value ReadSide} (ho : r.Open) (hflt : r.rflt = false)
    (hopc : r.commands.getLast?.map opcField = some j.opcode.number)
    (hm : m.Ends (fun _ r' => r'.lookaheadInv ∧ r.Frame r') (fun r' => r'.Waiting j ∧ r.Frame r')
      fun e r' => e.OfSource ∧ r.Frame r') : (brFinish j m).Inv := by
  cases m with
  | ok d r' =>
    obtain ⟨hlook, hframe⟩ := hm
    have hclear := hframe.rflt.trans hflt
    exact (hframe.isOpen ho).inv_of_responding (flt := r'.rflt) (fun _ => hlook) (by simp [BrResponse.wf])
      (by simp [hclear]) (by simp)
  | blocked r' =>
    obtain ⟨hwait, hframe⟩ := hm
    exact (hframe.isOpen ho).inv_of_requesting (hframe.rflt.trans hflt) hwait (hframe.commands ▸ hopc)
  | raise e r' =>
    obtain ⟨he, hframe⟩ := hm
    have hmem := he.status_mem
    rw [brFinish, brRaise_of_latches he.latches]
    exact (hframe.isOpen ho).inv_of_responding nofun he.response_wf
      (iff_of_true rfl (by simp only [List.mem_cons] at hmem ⊢; tauto)) (iff_of_true rfl (.inr hmem))

theorem brRun_inv {j : BrJob} {r : ReadSide} (ho : r.Open) (hflt : r.rflt = false)
    (hopc : r.commands.getLast?.map opcField = some j.opcode.number) (h : r.Under j) : (brRun j r).Inv :=
  brFinish_inv ho hflt hopc (brRest_ends j h)

/-! ### The moves of BR -/

/-- The word of an idle BR's next command opens it. -/
theorem ReadSide.Inv.open_of_idle {r : ReadSide} (h : r.Inv) (hp : r.phase = .idle) (w : CmdWord) : (brTook w r).Open := by
  obtain ⟨-, -, hlatch, hcount⟩ := h
  simp only [hp] at hcount
  simp only [ReadSide.answered, hp, BrPhase.response, Option.toList_none, List.append_nil] at hlatch
  exact ⟨hlatch, by simp [hcount]⟩

/-- A refusal keeps the invariant, latch and all (R185, R187, R189). -/
theorem ReadSide.Open.inv_of_refused {r : ReadSide} (h : r.Open) (hlook : r.rflt = false → r.lookaheadInv) {st : Status}
    (hst : st ∈ [Status.invalidBitWidth, .illegalCommand, .engineFaulted])
    (hflt : r.rflt = true ↔ st = .engineFaulted) : (brRefuse st r).Inv := by
  have hwf : (⟨st, 0#128, 0#Config.iocodeW⟩ : BrResponse).wf := by
    refine ⟨fun _ => rfl, fun _ => rfl, ?_⟩
    rintro rfl
    simp at hst
  refine h.inv_of_responding (flt := r.rflt) hlook hwf ?_ ?_ <;> cases st <;> simp_all

/-- An accepted command of an unfaulted BR keeps the invariant. -/
theorem inv_readerEffect {w : CmdWord} {i : Instr} (hdec : decodeBR w = .command i) {r : ReadSide} (hflt : r.rflt = false)
    (hlook : r.lookaheadInv) (ho : r.Open) (hlast : r.commands.getLast? = some w) : (readerEffect i r).Inv := by
  obtain ⟨hwf, hword⟩ := encode_of_decodeBR hdec
  obtain ⟨hpos, htracks⟩ := lookaheadInv_iff_tracks.mp hlook
  have htracks' : ∀ acc bcnt, { r with acc := acc, bcnt := bcnt }.Tracks := fun _ _ =>
    ⟨htracks.roff_le, htracks.cur_of_none, htracks.cur_of_last⟩
  cases i with
  | rdbit =>
    rw [readerEffect, rdbitCommand, brFrame_unfaulted hflt]
    exact brRun_inv ho hflt (by simp [hlast, ← hword, encode, BrJob.opcode]) htracks
  | rdbits n =>
    by_cases hn : 128 < n
    · rw [readerEffect, rdbitsCommand_of_tooWide hflt hn]
      exact ho.inv_of_refused (fun _ => hlook) (st := .invalidBitWidth) (by simp) (by simp [hflt])
    · have hasked : ∀ acc bcnt, { r with acc := acc, bcnt := bcnt }.countAsked = n := by
        intro acc bcnt
        simp [ReadSide.countAsked, hlast, ← hword, encode, countOperand_ofNat hwf]
      have hcount := toNat_countRegister (k := n) (by omega)
      rw [readerEffect, rdbitsCommand, brFrame_unfaulted hflt, if_neg (mt (tooWide_iff n).mp hn)]
      refine brRun_inv ⟨ho.latch, ho.count⟩ hflt (by simp [hlast, ← hword, encode, BrJob.opcode]) ?_
      rw [ReadSide.Under, hasked]
      exact ⟨htracks' _ _, fun _ => hpos, rfl, hcount.le, by omega, by simp⟩
  | rdbyte =>
    rw [readerEffect, rdbyteCommand, brFrame_unfaulted hflt]
    refine brRun_inv ⟨ho.latch, ho.count⟩ hflt (by simp [hlast, ← hword, encode, BrJob.opcode]) ?_
    exact ⟨htracks' _ _, fun _ => hpos, rfl, (by decide : (countRegister byteWidth).toNat ≤ 8), by decide, by simp⟩
  | _ => cases decodeBR_port hdec

/-- An answer to a waiting BR keeps the invariant. -/
theorem inv_brResume {r : ReadSide} {j : BrJob} (h : r.Inv) (hp : r.phase = .awaiting j) (a : SrcAnswer) :
    (brResume j a r).Inv := by
  obtain ⟨hlook, hphase, hlatch, hsession⟩ := h
  simp only [ReadSide.phaseInv, hp] at hphase
  simp only [hp] at hsession
  simp only [ReadSide.answered, hp, BrPhase.response, Option.toList_none, List.append_nil] at hlatch
  obtain ⟨hflt, h8, hans, hjob⟩ := hphase
  obtain ⟨hcount, hopc⟩ := hsession
  have hwait : r.Waiting j := ⟨hlook hflt, h8, hans, hjob⟩
  have ho : r.Open := ⟨hlatch, hcount⟩
  cases hr : srcReply a with
  | byte b =>
    have hresume : brResume j a r = brRun j { r with cur := b, roff := 0#4, taken := r.taken ++ [b] } := by
      rw [brResume, refillAnswered]
      simp only [hr, Micro.bind_ok, brRun]
    rw [hresume]
    exact brRun_inv ⟨ho.latch, ho.count⟩ hflt hopc (hwait.loaded (tracks_of_loaded rfl rfl rfl) rfl rfl rfl)
  | eos =>
    rw [brResume, refillAnswered_of_fails (.inl ⟨rfl, hr⟩)]
    exact brFinish_inv ho hflt hopc ⟨.inl rfl, .refl r⟩
  | ioerr c =>
    rw [brResume, refillAnswered_of_fails (.inr ⟨c, rfl, hr⟩)]
    exact brFinish_inv ho hflt hopc ⟨.inr ⟨c, rfl⟩, .refl r⟩

theorem inv_brReset (r : ReadSide) : (brReset r).Inv := by
  have htracks : (brReset r).Tracks := by
    refine ⟨by simp, by simp, fun b _ => ?_⟩
    rw [brReset_cur, brReset_roff]
    exact (BitVec.shiftLeft_eq_zero le_rfl).symm
  exact ⟨fun _ => lookaheadInv_iff_tracks.mpr ⟨by simp, htracks⟩, trivial, by simp [ReadSide.answered, BrPhase.response],
    rfl⟩

/-- Every move of BR keeps its invariant. -/
theorem ReaderMove.inv {s : State} {r : ReadSide} (h : ReaderMove s r) (hinv : s.rd.Inv) : r.Inv := by
  obtain ⟨hlook, hphase, hlatch, hsession⟩ := id hinv
  cases h with
  | stay => exact hinv
  | command w i hdec hp =>
    have ho := hinv.open_of_idle hp w
    cases hflt : s.rd.rflt with
    | true =>
      rw [readerEffect_faulted (r := brTook w s.rd) (decodeBR_port hdec) hflt]
      exact ho.inv_of_refused (by simp [hflt]) (by simp) (by simp [hflt])
    | false => exact inv_readerEffect hdec hflt (hlook hflt) ho (by simp)
  | illegal w hdec hp =>
    have ho := hinv.open_of_idle hp w
    cases hflt : s.rd.rflt with
    | true =>
      rw [brFrame_faulted (r := brTook w s.rd) hflt]
      exact ho.inv_of_refused (by simp [hflt]) (by simp) (by simp [hflt])
    | false =>
      rw [brFrame_unfaulted (r := brTook w s.rd) hflt]
      exact ho.inv_of_refused (fun _ => hlook hflt) (by simp) (by simp [hflt])
  | taken q hp hmem =>
    simp only [ReadSide.answered, hp, BrPhase.response, Option.toList_some] at hlatch
    simp only [hp] at hsession
    exact ⟨hlook, trivial, by simpa [ReadSide.answered, BrPhase.response] using hlatch, by simp [hsession]⟩
  | accepted j hp hmem =>
    simp only [ReadSide.phaseInv, hp] at hphase
    simp only [ReadSide.answered, hp, BrPhase.response] at hlatch
    simp only [hp] at hsession
    refine ⟨hlook, ?_, by simpa [ReadSide.answered, BrPhase.response] using hlatch, hsession⟩
    obtain ⟨hflt, h8, hans, hjob⟩ := hphase
    exact ⟨hflt, h8, hans, by cases j <;> exact hjob⟩
  | answered j a hp hmem => exact inv_brResume hinv hp a
  | reset hp hmem => exact inv_brReset s.rd

/-- Settles O54, move by move of BR. -/
theorem readerInvariantIsKept : Obligations.ReaderInvariantIsKept := by
  intro s t hinv h
  obtain ⟨-, -, -, -, -, -, hmove, -⟩ := step_moves h
  exact hmove.inv hinv

end Sys2Proof.Machine
end

section
/-! The invariant of BW is kept by every step (spec/10_state.md rules R33 to R36, spec/41_writer.md rules R141 to R159,
spec/60_exceptions.md rules R188, R189, spec/70_reset_and_hazards.md rule R215). -/

namespace Sys2Proof.Machine

/-! ### PEND and WOFF through the micro-operations -/

/-- A bit moved into PEND, no byte completed (R35, R141). -/
theorem WriteSide.pendingInv.shifted {w : WriteSide} (h : w.pendingInv) (hne : w.woff + 1#4 ≠ 8#4) (v : Bool) :
    { w with pend := shiftInBit 8 w.pend v, woff := w.woff + 1#4 }.pendingInv := by
  obtain ⟨hle, hpend⟩ := h
  have hlt : w.woff.toNat < 7 := by bv_omega
  have hbit := Bool.toNat_lt v
  rw [WriteSide.pendingInv, toNat_offset_succ (by omega), toNat_shiftInBit 8 _ _ (by decide)]
  refine ⟨hlt, (Nat.mod_le _ _).trans_lt ?_⟩
  rw [Nat.pow_succ]
  omega

/-- BW waits with the completed byte, no answer being left (R69, R143). -/
structure WriteSide.FullByte (w : WriteSide) : Prop where
  woff : w.woff = 8#4
  answers : w.answers = []

theorem emit_ends (w : WriteSide) :
    (emit w).Ends (fun _ w' => w'.woff = 0#4 ∧ w'.pend = 0#8) (fun w' => w' = w ∧ w.answers = []) fun _ _ => True := by
  obtain ⟨hans, hr⟩ | ⟨a, rest, -, -, hr⟩ | ⟨a, rest, e, -, -, hr⟩ := emit_cases w
  all_goals rw [hr]
  · exact ⟨rfl, hans⟩
  · exact ⟨rfl, rfl⟩
  · trivial

theorem pendingInv_of_zero {w : WriteSide} (h : w.woff = 0#4 ∧ w.pend = 0#8) : w.pendingInv := by
  simp [WriteSide.pendingInv, h.1, h.2]

theorem shiftIn_pendingInv (v : Bool) {w : WriteSide} (h : w.pendingInv) :
    (shiftIn v w).Ends (fun _ w' => w'.pendingInv) WriteSide.FullByte fun _ _ => True := by
  by_cases hfull : w.woff + 1#4 = 8#4
  · rw [shiftIn_full v hfull]
    refine (emit_ends _).mono (fun _ _ => pendingInv_of_zero) ?_ fun _ _ _ => trivial
    rintro w' ⟨rfl, hans⟩
    exact ⟨rfl, hans⟩
  · rw [shiftIn_partial v hfull]
    exact h.shifted hfull v

/-- A loop waits inside its `k` turns with a completed byte, the turns left in WIDX (log 10). -/
theorem shiftLoop_pendingInv (bit : Nat → Bool) (k : Nat) {w : WriteSide} (h : w.pendingInv) :
    (shiftLoop bit k w).Ends (fun _ w' => w'.pendingInv)
      (fun w' => w'.FullByte ∧ ∃ k' < k, w'.widx = countRegister k') fun _ _ => True := by
  induction k generalizing w with
  | zero => exact h
  | succ k ih =>
    have hturn := (shiftIn_pendingInv (bit k) (w := { w with widx := countRegister k }) h).and_leaves
      (shiftIn_wval_widx _ _)
    rw [shiftLoop_succ]
    refine Micro.Ends.bind (hturn.mono (fun _ _ hQ => hQ) (fun w' hB => ⟨hB.1, k, by omega, hB.2.2⟩)
      fun _ _ _ => trivial) fun _ w' hQ => (ih hQ.1).mono (fun _ _ hQ => hQ) ?_ fun _ _ _ => trivial
    rintro w'' ⟨hfull, k', hlt, hwidx⟩
    exact ⟨hfull, k', by omega, hwidx⟩

/-- PAD leaves nothing pending, or waits with its one byte (R153). -/
theorem padToByte_ends {w : WriteSide} (h : w.pendingInv) :
    (padToByte w).Ends (fun _ w' => w'.woff = 0#4 ∧ w'.pend = 0#8) (fun w' => w'.FullByte ∧ w'.widx = 0#8)
      fun _ _ => True := by
  by_cases h0 : w.woff = 0#4
  · rw [padToByte_aligned h0]
    exact ⟨h0, h.pend_eq_zero h0⟩
  · rw [padToByte_eq_emit h.1 h0]
    refine (emit_ends _).mono (fun _ _ hQ => hQ) ?_ fun _ _ _ => trivial
    rintro w' ⟨rfl, hans⟩
    exact ⟨⟨rfl, hans⟩, rfl⟩

theorem sinkFlush_ends (w : WriteSide) :
    (sinkFlush w).Ends
      (fun _ w' => w'.woff = w.woff ∧ w'.pend = w.pend ∧ w'.drained = w'.accepted.length)
      (fun w' => w' = w ∧ w.answers = []) fun _ _ => True := by
  obtain ⟨hans, hr⟩ | ⟨a, rest, -, -, hr⟩ | ⟨a, rest, c, -, -, hr⟩ := sinkFlush_cases w
  all_goals rw [hr]
  · exact ⟨rfl, hans⟩
  · exact ⟨rfl, rfl, rfl⟩
  · trivial

/-! ### The session -/

/-- BW has taken a command that is not answered yet: the session's record and the sink's without it (R34, R66, R83). -/
structure WriteSide.Open (w : WriteSide) : Prop where
  latch : w.wflt = true ↔ ∃ q ∈ w.responses, q.status ∈ [Status.zeroBytesWritten, .underlyingIOError]
  count : w.commands.length = w.responses.length + 1
  sink : w.sinkInv

theorem WriteSide.Frame.sinkInv {fl : Prop} {w w' : WriteSide} (h : w.Frame fl w') (hs : w.sinkInv) : w'.sinkInv := by
  obtain ⟨new, acc, hreq, hacc, hsub, -⟩ := h.sent
  obtain ⟨hdrained, hbytes⟩ := hs
  constructor
  · obtain hd | ⟨-, hd⟩ := h.drained
    · rw [hd, hacc, List.length_append]
      omega
    · exact hd
  · rw [hreq, hacc, writtenBytes_append]
    exact hbytes.append hsub

theorem WriteSide.Frame.isOpen {fl : Prop} {w w' : WriteSide} (h : w.Frame fl w') (ho : w.Open) : w'.Open :=
  ⟨by rw [h.wflt, h.responses]; exact ho.latch, by rw [h.commands, h.responses]; exact ho.count, h.sinkInv ho.sink⟩

/-- The invariant once a command is answered with `q`, WFLT being `flt` afterwards. -/
theorem WriteSide.Open.inv_of_responding {w : WriteSide} {q : BwResponse} {flt : Bool} (h : w.Open)
    (hpend : flt = false → w.pendingInv) (hwf : q.wf)
    (hstatus : flt = true ↔ q.status ∈ [Status.zeroBytesWritten, .underlyingIOError, .engineFaulted])
    (hlatch : flt = true ↔ w.wflt = true ∨ q.status ∈ [Status.zeroBytesWritten, .underlyingIOError])
    (hflush : w.commands.getLast? = some (cmdWord .flush 0) → q.status = .ok → { w with wflt := flt }.nothingLeft) :
    { w with wflt := flt, phase := .responding q }.Inv := by
  refine ⟨h.sink, ⟨hpend, hwf, hstatus⟩, ?_, h.count, ?_⟩
  · rw [hlatch, h.latch]
    simp only [WriteSide.answered, BwPhase.response, Option.toList_some, List.mem_append, List.mem_singleton, or_and_right,
      exists_or, exists_eq_left]
  · rintro ⟨hlast, hok⟩
    exact hflush hlast (by simpa [WriteSide.answered, BwPhase.response] using hok)

theorem WriteSide.Open.inv_of_requesting {w : WriteSide} {j : BwJob} (h : w.Open) (hflt : w.wflt = false)
    (hans : w.answers = []) (hjob : w.jobInv j) (hopc : w.commands.getLast?.map opcField = some j.opcode.number) :
    { w with phase := .requesting j }.Inv := by
  refine ⟨h.sink, ⟨hflt, hans, ?_⟩, ?_, h.count, hopc⟩
  · cases j <;> exact hjob
  · simpa [WriteSide.answered, BwPhase.response] using h.latch

/-- What the session asks of the end of a command whose opcode is `o`: after a FLUSH nothing is left behind (R215). -/
def WriteSide.DoneWith (o : Opcode) (w : WriteSide) : Prop :=
  w.pendingInv ∧ (o = .flush → w.woff = 0#4 ∧ w.pend = 0#8 ∧ w.drained = w.accepted.length)

/-- A successful end of the command whose opcode is `o` keeps the invariant. -/
theorem WriteSide.Open.inv_of_ok {w : WriteSide} {o : Opcode} (h : w.Open) (hflt : w.wflt = false)
    (hopc : w.commands.getLast?.map opcField = some o.number) (hdone : w.DoneWith o) : (bwOk w).Inv := by
  refine h.inv_of_responding (flt := w.wflt) (fun _ => hdone.1) (by simp [BwResponse.wf]) (by simp [hflt]) (by simp) ?_
  intro hlast _
  have ho : o = .flush := by
    rw [hlast, Option.map_some, opcField_cmdWord, Option.some_inj] at hopc
    exact Option.some_inj.mp ((opcodeOf_number o).symm.trans (hopc ▸ opcodeOf_number .flush))
  obtain ⟨hwoff, hpend, hdrained⟩ := hdone.2 ho
  exact ⟨hwoff, hpend, hflt, hdrained⟩

/-- An end with a stream error keeps the invariant, and sets the latch (R188). -/
theorem WriteSide.Open.inv_of_raise {w : WriteSide} {e : Err} (h : w.Open) (he : e.OfSink) : (bwRaise e w).Inv := by
  have hmem := he.status_mem
  rw [bwRaise_of_latches he.latches]
  refine h.inv_of_responding nofun he.response_wf (iff_of_true rfl (by simp only [List.mem_cons] at hmem ⊢; tauto))
    (iff_of_true rfl (.inr hmem)) fun _ hok => ?_
  obtain rfl | ⟨c, rfl⟩ := he <;> cases hok

/-- However a stretch of a command ends, the invariant holds then. -/
theorem bwFinish_inv {j : BwJob} {w : WriteSide} {fl : Prop} {m : Micro Unit WriteSide} (ho : w.Open)
    (hflt : w.wflt = false) (hopc : w.commands.getLast?.map opcField = some j.opcode.number)
    (hm : m.Ends (fun _ w' => w'.DoneWith j.opcode) (fun w' => w'.answers = [] ∧ w'.jobInv j) fun _ _ => True)
    (hframe : m.Leaves (w.Frame fl) Err.OfSink) : (bwFinish j m).Inv := by
  cases m with
  | ok u w' =>
    have hframe : w.Frame fl w' := hframe
    exact (hframe.isOpen ho).inv_of_ok (hframe.wflt.trans hflt) (hframe.commands ▸ hopc) hm
  | blocked w' =>
    have hframe : w.Frame fl w' := hframe
    exact (hframe.isOpen ho).inv_of_requesting (hframe.wflt.trans hflt) hm.1 hm.2 (hframe.commands ▸ hopc)
  | raise e w' =>
    obtain ⟨he, hframe⟩ := hframe
    exact (hframe.isOpen ho).inv_of_raise he

/-- However the padding of a FLUSH ends, the invariant holds at the end of the stretch. -/
theorem bwFinishFlush_inv {w : WriteSide} {m : Micro Unit WriteSide} (ho : w.Open) (hflt : w.wflt = false)
    (hopc : w.commands.getLast?.map opcField = some Opcode.flush.number)
    (hm : m.Ends (fun _ w' => w'.woff = 0#4 ∧ w'.pend = 0#8) (fun w' => w'.FullByte ∧ w'.widx = 0#8) fun _ _ => True)
    (hframe : m.Leaves (w.Frame True) Err.OfSink) : (bwFinishFlush m).Inv := by
  cases m with
  | ok u w' =>
    have hframe : w.Frame True w' := hframe
    obtain ⟨hwoff, hpend⟩ := hm
    refine bwFinish_inv (j := .flushSink) (hframe.isOpen ho) (hframe.wflt.trans hflt) (hframe.commands ▸ hopc)
      ((sinkFlush_ends w').mono ?_ ?_ fun _ _ _ => trivial) (sinkFlush_frame (.refl _ w'))
    · rintro _ w'' ⟨hwoff', hpend', hdrained⟩
      have hzero := And.intro (hwoff'.trans hwoff) (hpend'.trans hpend)
      exact ⟨pendingInv_of_zero hzero, fun _ => ⟨hzero.1, hzero.2, hdrained⟩⟩
    · rintro w'' ⟨rfl, hans⟩
      exact ⟨hans, hwoff, hpend⟩
  | blocked w' =>
    have hframe : w.Frame True w' := hframe
    exact (hframe.isOpen ho).inv_of_requesting (hframe.wflt.trans hflt) hm.1.answers ⟨hm.1.woff, hm.2⟩
      (hframe.commands ▸ hopc)
  | raise e w' =>
    obtain ⟨he, hframe⟩ := hframe
    exact (hframe.isOpen ho).inv_of_raise he

/-! ### The commands -/

/-- A loop of `n` bits ends as the commands WRBITS and WRBYTE wait and answer. -/
theorem writeLoop_ends {o : Opcode} (ho : o ≠ .flush) (n : Nat) (hn : n ≤ 128) {w : WriteSide} (h : w.pendingInv) :
    (writeLoop n w).Ends (fun _ w' => w'.DoneWith o)
      (fun w' => w'.answers = [] ∧ w'.woff = 8#4 ∧ w'.widx.toNat < n) fun _ _ => True := by
  rw [writeLoop_eq_shiftLoop]
  refine (shiftLoop_pendingInv _ n h).mono (fun _ _ hQ => ⟨hQ, fun hf => absurd hf ho⟩) ?_ fun _ _ _ => trivial
  rintro w' ⟨hfull, k', hlt, hwidx⟩
  exact ⟨hfull.answers, hfull.woff, by rwa [hwidx, toNat_countRegister (by omega)]⟩

theorem writeLoop_frame (n : Nat) (w : WriteSide) : (writeLoop n w).Leaves (w.Frame False) Err.OfSink := by
  rw [writeLoop_eq_shiftLoop]
  exact shiftLoop_frame _ _ (.refl _ w)

theorem wrbits_inv {w : WriteSide} {n : Nat} (hn : n ≤ 128) (ho : w.Open) (hflt : w.wflt = false)
    (hopc : w.commands.getLast?.map opcField = some Opcode.wrbits.number) (h : w.pendingInv) :
    (bwFinish .wrbits (writeLoop n w)).Inv :=
  bwFinish_inv ho hflt hopc ((writeLoop_ends (o := .wrbits) nofun n hn h).mono (fun _ _ hQ => hQ)
    (fun _ ⟨hans, hwoff, hwidx⟩ => ⟨hans, hwoff, by omega⟩) fun _ _ _ => trivial) (writeLoop_frame n w)

theorem wrbyte_inv {w : WriteSide} {n : Nat} (hn : n ≤ 8) (ho : w.Open) (hflt : w.wflt = false)
    (hopc : w.commands.getLast?.map opcField = some Opcode.wrbyte.number) (h : w.pendingInv) :
    (bwFinish .wrbyte (writeLoop n w)).Inv :=
  bwFinish_inv ho hflt hopc ((writeLoop_ends (o := .wrbyte) nofun n (by omega) h).mono (fun _ _ hQ => hQ)
    (fun _ ⟨hans, hwoff, hwidx⟩ => ⟨hans, hwoff, by omega⟩) fun _ _ _ => trivial) (writeLoop_frame n w)

/-- A refusal keeps the invariant, latch and all (R185, R187, R189). -/
theorem WriteSide.Open.inv_of_refused {w : WriteSide} (h : w.Open) (hpend : w.wflt = false → w.pendingInv) {st : Status}
    (hst : st ∈ [Status.invalidBitWidth, .illegalCommand, .engineFaulted])
    (hflt : w.wflt = true ↔ st = .engineFaulted) : (bwRefuse st w).Inv := by
  have hwf : (⟨st, 0#Config.iocodeW⟩ : BwResponse).wf := by
    refine ⟨fun _ => rfl, ?_⟩
    rintro rfl
    simp at hst
  refine h.inv_of_responding (flt := w.wflt) hpend hwf ?_ ?_ ?_ <;> cases st <;> simp_all

/-- An accepted command of an unfaulted BW keeps the invariant. -/
theorem inv_writerEffect {c : CmdWord} {val : Value} {i : Instr} (hdec : decodeBW c val = .command i) {w : WriteSide}
    (hflt : w.wflt = false) (hpend : w.pendingInv) (ho : w.Open) (hlast : w.commands.getLast? = some c) :
    (writerEffect i w).Inv := by
  obtain ⟨-, hword⟩ := encode_of_decodeBW hdec
  have hopc : w.commands.getLast?.map opcField = some (opcField (encode i).word) := by rw [hlast, hword, Option.map_some]
  have ho' : ∀ val, (w.latched val).Open := fun _ => ⟨ho.latch, ho.count, ho.sink⟩
  cases i with
  | wrbit val =>
    rw [writerEffect, wrbitCommand, bwFrame_unfaulted hflt]
    exact bwFinish_inv (fl := False) (ho' val) hflt (hopc.trans (congrArg some (opcField_cmdWord _ _)))
      ((shiftIn_pendingInv _ (w := w.latched val) hpend).mono (fun _ _ hQ => ⟨hQ, nofun⟩)
        (fun _ hB => ⟨hB.answers, hB.woff⟩) fun _ _ _ => trivial)
      (shiftIn_frame _ (.refl _ _))
  | wrbits val n =>
    by_cases hn : 128 < n
    · rw [writerEffect, wrbitsCommand_of_tooWide val hflt hn]
      exact ho.inv_of_refused (fun _ => hpend) (st := .invalidBitWidth) (by simp) (by simp [hflt])
    · rw [writerEffect, wrbitsCommand_eq val hflt (by omega)]
      exact wrbits_inv (by omega) (ho' val) hflt (hopc.trans (congrArg some (opcField_cmdWord _ _))) hpend
  | wrbyte val =>
    rw [writerEffect, wrbyteCommand_eq val hflt]
    exact wrbyte_inv le_rfl (ho' val) hflt (hopc.trans (congrArg some (opcField_cmdWord _ _))) hpend
  | pad =>
    rw [writerEffect, padCommand, bwFrame_unfaulted hflt]
    exact bwFinish_inv (fl := False) ho hflt (hopc.trans (congrArg some (opcField_cmdWord _ _)))
      ((padToByte_ends hpend).mono (fun _ _ hQ => ⟨pendingInv_of_zero hQ, nofun⟩)
        (fun _ hB => ⟨hB.1.answers, hB.1.woff, hB.2⟩) fun _ _ _ => trivial)
      (padToByte_frame (.refl _ _))
  | fpad =>
    rw [writerEffect, fpadCommand, bwFrame_unfaulted hflt]
    refine bwFinish_inv (fl := False) ho hflt (hopc.trans (congrArg some (opcField_cmdWord _ _)))
      ((emit_ends w).mono (fun _ _ hQ => ⟨pendingInv_of_zero hQ, nofun⟩) ?_ fun _ _ _ => trivial)
      (emit_frame (.refl _ _))
    rintro w' ⟨rfl, hans⟩
    exact ⟨hans, hpend⟩
  | flush =>
    rw [writerEffect, flushCommand, bwFrame_unfaulted hflt]
    exact bwFinishFlush_inv ho hflt (hopc.trans (congrArg some (opcField_cmdWord _ _))) (padToByte_ends hpend) (padToByte_frame (.refl _ _))
  | _ => cases decodeBW_port hdec

/-! ### An answer that comes late -/

/-- The sink has accepted PEND (R142). -/
def WriteSide.stored (w : WriteSide) : WriteSide :=
  { w with pend := 0#8, woff := 0#4, accepted := w.accepted ++ [w.pend] }

theorem emitAnswered_of_accepted {a : SnkAnswer} (h : writeReply a = .accepted) (w : WriteSide) :
    emitAnswered a w = .ok () w.stored := by
  simp [emitAnswered, h, WriteSide.stored]

/-- What the sink's answer finds: the command in progress, its request the last one sent. -/
structure WriteSide.Awaiting (w : WriteSide) (j : BwJob) : Prop where
  isOpen : w.Open
  wflt : w.wflt = false
  answers : w.answers = []
  job : w.jobInv j
  opcode : w.commands.getLast?.map opcField = some j.opcode.number
  request : ∃ before, w.requests = before ++ [bwRequest j w] ∧ w.accepted.Sublist (writtenBytes before)

theorem WriteSide.Inv.awaiting {w : WriteSide} {j : BwJob} (h : w.Inv) (hp : w.phase = .awaiting j) : w.Awaiting j := by
  obtain ⟨hsink, hphase, hlatch, hsession⟩ := h
  simp only [WriteSide.phaseInv, hp] at hphase
  simp only [hp] at hsession
  simp only [WriteSide.answered, hp, BwPhase.response, Option.toList_none, List.append_nil] at hlatch
  obtain ⟨hflt, hans, hjob, hreq⟩ := hphase
  obtain ⟨hcount, hopc⟩ := hsession
  exact ⟨⟨hlatch, hcount, hsink⟩, hflt, hans, hjob, hopc, hreq⟩

/-- A byte accepted late was the last one offered (R66). -/
theorem WriteSide.Awaiting.isOpen_stored {w : WriteSide} {j : BwJob} (h : w.Awaiting j) (hj : j ≠ .flushSink) :
    w.stored.Open := by
  obtain ⟨before, hreq, hsub⟩ := h.request
  obtain ⟨hdrained, -⟩ := h.isOpen.sink
  rw [bwRequest_of_ne_flushSink hj] at hreq
  refine ⟨h.isOpen.latch, h.isOpen.count, ?_, ?_⟩
  · simp only [WriteSide.stored, List.length_append]
    omega
  · simp only [WriteSide.stored, hreq, writtenBytes_append]
    exact hsub.append (.refl _)

theorem pendingInv_stored (w : WriteSide) : w.stored.pendingInv := pendingInv_of_zero ⟨rfl, rfl⟩

/-- A late acceptance keeps the invariant, whichever command goes on with it. -/
theorem WriteSide.Awaiting.inv_of_accepted {w : WriteSide} {j : BwJob} (h : w.Awaiting j) (hj : j ≠ .flushSink)
    {a : SnkAnswer} (ha : writeReply a = .accepted) : (bwResume j a w).Inv := by
  have hstored := emitAnswered_of_accepted ha w
  have ho := h.isOpen_stored hj
  have hjob := h.job
  have hopc : w.stored.commands.getLast?.map opcField = some j.opcode.number := h.opcode
  have hdone : ∀ {o : Opcode}, o ≠ .flush → w.stored.DoneWith o := fun ho => ⟨pendingInv_stored w, fun hf => absurd hf ho⟩
  cases j with
  | wrbit | fpad =>
    rw [bwResume, hstored]
    exact ho.inv_of_ok h.wflt hopc (hdone nofun)
  | wrbits =>
    rw [bwResume, hstored]
    exact wrbits_inv (Nat.le_succ_of_le hjob.2) ho h.wflt hopc (pendingInv_stored w)
  | wrbyte =>
    rw [bwResume, hstored]
    exact wrbyte_inv (Nat.le_succ_of_le hjob.2) ho h.wflt hopc (pendingInv_stored w)
  | pad =>
    have hwidx : w.stored.widx.toNat = 0 := congrArg BitVec.toNat hjob.2
    rw [bwResume, hstored, Micro.bind_ok, hwidx]
    exact ho.inv_of_ok h.wflt hopc (hdone nofun)
  | flushPad =>
    have hwidx : w.stored.widx.toNat = 0 := congrArg BitVec.toNat hjob.2
    rw [bwResume, hstored, Micro.bind_ok, hwidx]
    exact bwFinishFlush_inv (m := .ok () w.stored) ho h.wflt hopc ⟨rfl, rfl⟩ (WriteSide.Frame.refl _ _)
  | flushSink => exact absurd rfl hj

/-- A late answer to a FLUSH request keeps the invariant (R57, R159). -/
theorem WriteSide.Awaiting.inv_of_flush {w : WriteSide} (h : w.Awaiting .flushSink) (a : SnkAnswer) :
    (bwResume .flushSink a w).Inv := by
  obtain ⟨hwoff, hpend⟩ := h.job
  rw [bwResume, flushAnswered]
  cases hr : flushReply a with
  | done =>
    have ho : { w with drained := w.accepted.length }.Open := ⟨h.isOpen.latch, h.isOpen.count, le_rfl, h.isOpen.sink.2⟩
    exact ho.inv_of_ok h.wflt h.opcode ⟨pendingInv_of_zero ⟨hwoff, hpend⟩, fun _ => ⟨hwoff, hpend, rfl⟩⟩
  | ioerr c => exact h.isOpen.inv_of_raise (.inr ⟨c, rfl⟩)

/-- An answer to a waiting BW keeps the invariant. -/
theorem inv_bwResume {w : WriteSide} {j : BwJob} (h : w.Awaiting j) (a : SnkAnswer) : (bwResume j a w).Inv := by
  by_cases hj : j = .flushSink
  · subst hj
    exact h.inv_of_flush a
  · cases hr : writeReply a with
    | accepted => exact h.inv_of_accepted hj hr
    | zero =>
      rw [bwResume_of_fails hj (.inl ⟨rfl, hr⟩)]
      exact h.isOpen.inv_of_raise (.inl rfl)
    | ioerr c =>
      rw [bwResume_of_fails hj (.inr ⟨c, rfl, hr⟩)]
      exact h.isOpen.inv_of_raise (.inr ⟨c, rfl⟩)

/-! ### The moves of BW -/

/-- The word of an idle BW's next command opens it. -/
theorem WriteSide.Inv.open_of_idle {w : WriteSide} (h : w.Inv) (hp : w.phase = .idle) (c : CmdWord) :
    (bwTook c w).Open := by
  obtain ⟨hsink, -, hlatch, hsession⟩ := h
  simp only [hp] at hsession
  simp only [WriteSide.answered, hp, BwPhase.response, Option.toList_none, List.append_nil] at hlatch
  exact ⟨hlatch, by simp [hsession.1], hsink⟩

theorem inv_bwReset {w : WriteSide} (h : w.Inv) : (bwReset w).Inv := by
  obtain ⟨hsink, -⟩ := h
  refine ⟨hsink, fun _ => pendingInv_of_zero ⟨rfl, rfl⟩, by simp [WriteSide.answered, BwPhase.response], rfl, ?_⟩
  rintro ⟨hlast, -⟩
  simp at hlast

/-- Every move of BW keeps its invariant. -/
theorem WriterMove.inv {s : State} {w : WriteSide} (h : WriterMove s w) (hinv : s.wr.Inv) : w.Inv := by
  obtain ⟨hsink, hphase, hlatch, hsession⟩ := id hinv
  cases h with
  | stay => exact hinv
  | command c val i hdec hp =>
    have ho := hinv.open_of_idle hp c
    simp only [WriteSide.phaseInv, hp] at hphase
    cases hflt : s.wr.wflt with
    | true =>
      rw [writerEffect_faulted (w := bwTook c s.wr) (decodeBW_port hdec) hflt]
      exact ho.inv_of_refused (by simp [hflt]) (by simp) (by simp [hflt])
    | false => exact inv_writerEffect hdec hflt (hphase hflt) ho (by simp)
  | illegal c val hdec hp =>
    have ho := hinv.open_of_idle hp c
    simp only [WriteSide.phaseInv, hp] at hphase
    cases hflt : s.wr.wflt with
    | true =>
      rw [bwFrame_faulted (w := bwTook c s.wr) hflt]
      exact ho.inv_of_refused (by simp [hflt]) (by simp) (by simp [hflt])
    | false =>
      rw [bwFrame_unfaulted (w := bwTook c s.wr) hflt]
      exact ho.inv_of_refused (fun _ => hphase hflt) (by simp) (by simp [hflt])
  | taken q hp hmem =>
    simp only [WriteSide.phaseInv, hp] at hphase
    simp only [WriteSide.answered, hp, BwPhase.response, Option.toList_some] at hlatch
    simp only [hp] at hsession
    obtain ⟨hcount, hflush⟩ := hsession
    refine ⟨hsink, hphase.1, by simpa [WriteSide.answered, BwPhase.response] using hlatch, by simp [hcount], ?_⟩
    rintro ⟨hlast, hok⟩
    exact hflush ⟨hlast, by simpa [WriteSide.answered, hp, BwPhase.response] using hok⟩
  | accepted j hp hmem =>
    simp only [WriteSide.phaseInv, hp] at hphase
    simp only [WriteSide.answered, hp, BwPhase.response] at hlatch
    simp only [hp] at hsession
    obtain ⟨hdrained, hsub⟩ := hsink
    obtain ⟨hflt, hans, hjob⟩ := hphase
    refine ⟨⟨hdrained, ?_⟩, ⟨hflt, hans, ?_, s.wr.requests, ?_, hsub⟩,
      by simpa [WriteSide.answered, BwPhase.response] using hlatch, hsession⟩
    · rw [writtenBytes_append]
      exact hsub.trans (List.sublist_append_left _ _)
    · cases j <;> exact hjob
    · cases j <;> rfl
  | answered j a hp hmem => exact inv_bwResume (hinv.awaiting hp) a
  | reset hp hmem => exact inv_bwReset hinv

/-- Settles O55, move by move of BW. -/
theorem writerInvariantIsKept : Obligations.WriterInvariantIsKept := by
  intro s t hinv h
  obtain ⟨-, -, -, -, -, -, -, hmove⟩ := step_moves h
  exact hmove.inv hinv

/-! ### Reset, and sessions that ended well -/

theorem inv_reset_wr : WriteSide.reset.Inv := by
  refine ⟨⟨le_rfl, List.nil_sublist _⟩, fun _ => pendingInv_of_zero ⟨rfl, rfl⟩,
    by simp [WriteSide.reset, WriteSide.answered, BwPhase.response], rfl, ?_⟩
  rintro ⟨hlast, -⟩
  cases hlast

/-- Settles O53: the engines after reset are as a reset edge leaves them. -/
theorem invariantAfterReset : Obligations.InvariantAfterReset :=
  ⟨inv_brReset ReadSide.reset, inv_reset_wr⟩

/-- A BR session whose commands all answered OK has set no latch (R188, R216). -/
theorem rflt_of_endedWell {r : ReadSide} (h : r.Inv) (hended : r.endedWell) : r.rflt = false := by
  obtain ⟨hp, hok⟩ := hended
  obtain ⟨-, -, hlatch, -⟩ := h
  simp only [ReadSide.answered, hp, BrPhase.response, Option.toList_none, List.append_nil] at hlatch
  refine Bool.eq_false_iff.mpr (mt hlatch.mp ?_)
  rintro ⟨q, hq, hst⟩
  simp [hok q hq] at hst

/-- Settles O60: what the session's record says of the last FLUSH and of the latch is part of the invariant. -/
theorem endedWellSessionsLeaveNothing : Obligations.EndedWellSessionsLeaveNothing := by
  rintro s ⟨hrd, hwr⟩
  have hleft : s.wr.endedWell → s.wr.nothingLeft := by
    rintro ⟨hp, hflushed⟩
    obtain ⟨-, -, -, hsession⟩ := hwr
    simp only [hp] at hsession
    exact hsession.2 hflushed
  refine ⟨hleft, rflt_of_endedWell hrd, ?_, ?_⟩
  · rintro ⟨-, hflt⟩ hended
    simp [rflt_of_endedWell hrd hended] at hflt
  · rintro ⟨-, hflt⟩ hended
    simp [(hleft hended).2.2.1] at hflt

end Sys2Proof.Machine
end

section
/-! The commands of BR in closed form: one bit, one byte, a failing answer, a loop cut in two (spec/40_reader.md rules
R114 to R122, spec/95_test_vectors.md T4). -/

namespace Sys2Proof.Machine

/-! ### Bit strings as numbers -/

theorem bitsValue_append (p q : List Bool) : bitsValue (p ++ q) = bitsValue p * 2 ^ q.length + bitsValue q := by
  induction q using List.reverseRecOn with
  | nil => simp [bitsValue]
  | append_singleton q b ih =>
    rw [← List.append_assoc, bitsValue_append_singleton, bitsValue_append_singleton, ih, List.length_append,
      List.length_singleton, Nat.pow_succ]
    ring

/-- The high `m` and the low `n` bits of a number. -/
theorem msbBits_add (m n v : Nat) : msbBits (m + n) v = msbBits m (v >>> n) ++ msbBits n v := by
  induction m with
  | zero => simp [msbBits]
  | succ m ih =>
    rw [Nat.add_right_comm, msbBits, msbBits, ih, Nat.testBit_shiftRight, Nat.add_comm n m, List.cons_append]

@[simp] theorem bitsValue_msbBits (n v : Nat) : bitsValue (msbBits n v) = v % 2 ^ n := by
  induction n with
  | zero => simp [msbBits, bitsValue, Nat.mod_one]
  | succ n ih =>
    have hhead : bitsValue (msbBits (n + 1) v) = (v.testBit n).toNat * 2 ^ n + bitsValue (msbBits n v) := by
      rw [msbBits, ← List.singleton_append, bitsValue_append, length_msbBits]
      simp [bitsValue]
    rw [hhead, ih, Nat.mod_pow_succ, Nat.toNat_testBit]
    ring

/-- The first `k` bits of a byte. -/
theorem take_msbBits_eight {k : Nat} (hk : k ≤ 8) (v : Nat) : (msbBits 8 v).take k = msbBits k (v >>> (8 - k)) := by
  obtain ⟨m, hm⟩ := Nat.exists_eq_add_of_le hk
  rw [show 8 - k = m by omega, show 8 = k + m by omega, msbBits_add]
  exact List.take_left' (length_msbBits _ _)

theorem unread_eq_msbBits {r : ReadSide} (h : r.roff.toNat ≤ 8) :
    r.unread = msbBits (8 - r.roff.toNat) (r.cur.toNat >>> r.roff.toNat) := by
  rw [ReadSide.unread, take_msbBits_eight (Nat.sub_le _ _), Nat.sub_sub_self h]

theorem length_unread {r : ReadSide} (h : r.roff.toNat ≤ 8) : r.unread.length = 8 - r.roff.toNat := by
  rw [unread_eq_msbBits h, length_msbBits]

@[simp] theorem length_streamBits (bs : List Byte) : (streamBits bs).length = 8 * bs.length := by
  induction bs with
  | nil => rfl
  | cons b bs ih =>
    rw [← List.singleton_append, streamBits_append, List.length_append, ih, streamBits_singleton, length_msbBits,
      List.length_append, List.length_singleton]
    ring

/-! ### RDBIT -/

/-- R114 on an unfaulted BR. -/
theorem exec_rdbit {s : State} (hflt : s.rd.rflt = false) :
    exec .rdbit s = .next { s with
      rd := brFinish .rdbit ((readBit s.rd).bind fun b r => .ok (bitResult b) r) } := by
  rw [exec_br rfl, readerEffect, rdbitCommand, brFrame_unfaulted hflt]
  rfl

/-- A fetch answered with a byte in READBIT (R111 to R113). -/
theorem readBit_of_byte {r : ReadSide} {a : SrcAnswer} {rest : List SrcAnswer} {b : Byte} (h8 : r.roff = 8#4)
    (ha : r.answers = a :: rest) (hb : srcReply a = .byte b) :
    readBit r = .ok b.msb { r with
      cur := b <<< 1, roff := 1#4, fetches := r.fetches + 1, answers := rest, taken := r.taken ++ [b] } := by
  rw [readBit_refill h8 ha]
  simp [refillAnswered, hb, extract]

/-- A fetch answered with an error in READBIT (R111). -/
theorem readBit_of_fails {r : ReadSide} {a : SrcAnswer} {rest : List SrcAnswer} {e : Err} (h8 : r.roff = 8#4)
    (ha : r.answers = a :: rest) (he : a.Fails e) :
    readBit r = .raise e { r with fetches := r.fetches + 1, answers := rest } := by
  rw [readBit_refill h8 ha, refillAnswered_of_fails he, Micro.bind_raise]

/-- Settles O27, by READBIT with each answer and with none. -/
theorem rdbitReadsTheNextBit : Obligations.RdbitReadsTheNextBit := by
  intro s hflt
  rw [exec_rdbit hflt]
  refine ⟨fun hne => ?inside, fun a rest h8 ha => ?answered, fun h8 ha => ?waiting⟩
  case inside =>
    rw [readBit_lookahead hne, extract, shiftInBit_false]
    rfl
  case answered =>
    have hfails : ∀ e, a.Fails e →
        brFinish .rdbit ((readBit s.rd).bind fun b r => .ok (bitResult b) r) = { s.rd with
          rflt := true, answers := rest, fetches := s.rd.fetches + 1
          phase := .responding ⟨e.status, 0#128, e.iocode⟩ } := by
      intro e he
      rw [readBit_of_fails h8 ha he, Micro.bind_raise, brFinish, brRaise_of_latches he.ofSource.latches]
    refine ⟨fun b hb => ?_, fun hr => ?_, fun c hr => ?_⟩
    · rw [readBit_of_byte h8 ha hb]
      rfl
    · rw [hfails _ (.inl ⟨rfl, hr⟩)]
      rfl
    · rw [hfails _ (.inr ⟨c, rfl, hr⟩)]
      rfl
  case waiting =>
    rw [readBit_blocked h8 ha]
    rfl

/-! ### RDBITS and RDBYTE as one loop -/

/-- BR at the start of a loop of `n` bits (R116, R119). -/
def ReadSide.started (n : Nat) (r : ReadSide) : ReadSide := { r with acc := 0#128, bcnt := countRegister n }

/-- RDBITS 0 is a loop of no turns. -/
theorem exec_rdbits_zero {s : State} (hflt : s.rd.rflt = false) :
    exec (.rdbits 0) s = .next { s with rd := brOk 0#128 (s.rd.started 0) } := by
  rw [exec_br rfl, readerEffect, rdbitsCommand_eq hflt (Nat.zero_le _)]
  rfl

/-- Settles O29: a loop of no turns touches ACC and BCNT alone. -/
theorem rdbitsOfZeroBits : Obligations.RdbitsOfZeroBits := fun _ hflt =>
  ⟨_, exec_rdbits_zero hflt, rfl, rfl, rfl, rfl, rfl, rfl, rfl, rfl, rfl, rfl⟩

/-- The command `i` is a loop of `n` bits, RDBITS n or RDBYTE, and waits as `j`. -/
def LoopCommand (i : Instr) (j : BrJob) (n : Nat) : Prop :=
  i = .rdbits n ∧ j = .rdbits ∧ n ≤ 128 ∨ i = .rdbyte ∧ j = .rdbyte ∧ n = 8

/-- R116 and R119 on an unfaulted BR: the loop, and then the response. -/
theorem exec_loopCommand {i : Instr} {j : BrJob} {n : Nat} (hi : LoopCommand i j n) {s : State}
    (hflt : s.rd.rflt = false) :
    exec i s = .next { s with
      rd := brFinish j ((readLoop n (s.rd.started n)).bind fun _ r => .ok r.acc r) } := by
  obtain ⟨rfl, rfl, hn⟩ | ⟨rfl, rfl, rfl⟩ := hi
  · rw [exec_br rfl, readerEffect, rdbitsCommand_eq hflt hn, ReadSide.started]
  · rw [exec_br rfl, readerEffect, rdbyteCommand_eq hflt, readLoop_eight_byteResult rfl, ReadSide.started]

theorem LoopCommand.le {i : Instr} {j : BrJob} {n : Nat} (h : LoopCommand i j n) : n ≤ 128 := by
  obtain ⟨-, -, hn⟩ | ⟨-, -, rfl⟩ := h
  · exact hn
  · decide

/-- A loop that ends well is the command's OK response, the bits read being its data. -/
theorem exec_loopCommand_ok {i : Instr} {j : BrJob} {n : Nat} (hi : LoopCommand i j n) {s : State} {r : ReadSide}
    (hflt : s.rd.rflt = false) (hrun : readLoop n (s.rd.started n) = .ok () r) :
    exec i s = .next { s with rd := brOk r.acc r } := by
  rw [exec_loopCommand hi hflt, hrun]
  rfl

/-- What ACC holds after a walk from the start of a loop (R117). -/
theorem ReadSide.Walk.acc_of_started {r r' : ReadSide} {n : Nat} {q : List Bool} {bs : List Byte}
    (h : (r.started n).Walk q bs r') (hq : q.length ≤ 128) : r'.acc.toNat = bitsValue q := by
  rw [h.acc]
  exact toNat_foldl_shiftInBit_acc hq

/-! ### RDBYTE -/

/-- RDBYTE with its one fetch answered with a byte (R119). -/
theorem exec_rdbyte_of_byte {s : State} {a : SrcAnswer} {rest : List SrcAnswer} {b : Byte} (hflt : s.rd.rflt = false)
    (hpos : 1 ≤ s.rd.roff.toNat) (hle : s.rd.roff.toNat ≤ 8) (ha : s.rd.answers = a :: rest) (hb : srcReply a = .byte b) :
    ∃ q r, exec .rdbyte s = .next { s with rd := brOk r.acc r } ∧ (s.rd.started 8).Walk q [b] r ∧ q.length = 8 ∧
      q = msbBits (8 - s.rd.roff.toNat) (s.rd.cur.toNat >>> s.rd.roff.toNat) ++
        msbBits s.rd.roff.toNat (b.toNat >>> (8 - s.rd.roff.toNat)) := by
  have hans : (s.rd.started 8).answers = [a] ++ rest := ha
  have hbytes : AnswerBytes [a] [b] := by simp [AnswerBytes, hb]
  have hroff : (s.rd.started 8).roff.toNat = s.rd.roff.toNat := rfl
  obtain ⟨q, r, hrun, hq, hwalk⟩ := loopReads_of_answerBytes 8 (r := s.rd.started 8) hle hans hbytes
    (by rw [hroff, List.length_singleton]; omega)
  refine ⟨q, r, exec_loopCommand_ok (.inr ⟨rfl, rfl, rfl⟩) hflt hrun, hwalk, hq, ?_⟩
  have htake : ((s.rd.started 8).unread ++ streamBits [b]).take 8 = q := hq ▸ hwalk.take_eq
  have hunread : (s.rd.started 8).unread =
      msbBits (8 - s.rd.roff.toNat) (s.rd.cur.toNat >>> s.rd.roff.toNat) := unread_eq_msbBits hle
  rw [← htake, hunread, List.take_append, length_msbBits, List.take_of_length_le (by rw [length_msbBits]; omega),
    Nat.sub_sub_self hle, streamBits_singleton, take_msbBits_eight hle]

/-- The rest of one byte and the start of the next, as one byte (R119). -/
theorem toNat_joined (c b : Byte) {o : Nat} (h : o ≤ 8) :
    (c <<< o ||| b >>> (8 - o)).toNat = (c <<< o).toNat >>> o * 2 ^ o + b.toNat >>> (8 - o) := by
  have hlow : b.toNat >>> (8 - o) < 2 ^ o := by
    rw [Nat.shiftRight_eq_div_pow, Nat.div_lt_iff_lt_mul (Nat.two_pow_pos _), ← Nat.pow_add, Nat.add_sub_of_le h]
    exact b.isLt
  have hhigh : (c <<< o).toNat = (c.toNat % 2 ^ (8 - o)) <<< o := by
    have hpow : 2 ^ 8 = 2 ^ (8 - o) * 2 ^ o := by rw [← Nat.pow_add, Nat.sub_add_cancel h]
    rw [BitVec.toNat_shiftLeft, Nat.shiftLeft_eq, Nat.shiftLeft_eq, hpow, Nat.mul_mod_mul_right]
  rw [BitVec.toNat_or, BitVec.toNat_ushiftRight, hhigh, ← Nat.shiftLeft_add_eq_or_of_lt hlow, Nat.shiftLeft_shiftRight,
    Nat.shiftLeft_eq]

/-- Settles O30: the eight bits read are the rest of the one byte and the start of the other. -/
theorem rdbyteJoinsTwoStreamBytes : Obligations.RdbyteJoinsTwoStreamBytes := by
  intro s a rest c b hflt hpos hle hcur ha hb
  obtain ⟨q, r, hexec, hwalk, hq, hbits⟩ := exec_rdbyte_of_byte hflt hpos hle ha hb
  have hposition : r.roff.toNat + 8 * [b].length = s.rd.roff.toNat + q.length := hwalk.position
  have hroff : r.roff = s.rd.roff := BitVec.eq_of_toNat_eq (by simpa [hq] using hposition)
  have hlt : b.toNat >>> (8 - s.rd.roff.toNat) < 2 ^ s.rd.roff.toNat := by
    rw [Nat.shiftRight_eq_div_pow, Nat.div_lt_iff_lt_mul (Nat.two_pow_pos _), ← Nat.pow_add, Nat.add_sub_of_le hle]
    exact b.isLt
  have hlt' : s.rd.cur.toNat >>> s.rd.roff.toNat < 2 ^ (8 - s.rd.roff.toNat) := by
    rw [Nat.shiftRight_eq_div_pow, Nat.div_lt_iff_lt_mul (Nat.two_pow_pos _), ← Nat.pow_add, Nat.sub_add_cancel hle]
    exact s.rd.cur.isLt
  have hacc : r.acc = (c <<< s.rd.roff.toNat ||| b >>> (8 - s.rd.roff.toNat)).setWidth 128 := by
    apply BitVec.eq_of_toNat_eq
    rw [hwalk.acc_of_started (by omega), hbits, bitsValue_append, bitsValue_msbBits, bitsValue_msbBits, length_msbBits,
      Nat.mod_eq_of_lt hlt, Nat.mod_eq_of_lt hlt', BitVec.toNat_setWidth_of_le (by decide), toNat_joined c b hle, hcur]
  refine ⟨_, hexec, by rw [brOk_phase, hacc], hroff, ?_, hwalk.fetches, ?_, hwalk.taken, hwalk.rflt.trans hflt,
    hwalk.responses, rfl, rfl⟩
  · rw [← hroff]
    exact hwalk.cur_of_last b rfl
  · have hans : (s.rd.started 8).answers = a :: rest := ha
    simp [hwalk.answers, hans]

/-! ### A loop that outruns its answers -/

theorem readLoop_bcnt {k : Nat} {r r' : ReadSide} (h : readLoop k r = .ok () r') : r'.bcnt = r.bcnt - BitVec.ofNat 8 k := by
  induction k generalizing r with
  | zero =>
    cases h
    simp
  | succ k ih =>
    rw [readLoop_succ] at h
    have hbit := readBit_acc_bcnt r
    cases hr : readBit r with
    | ok b r₁ =>
      rw [hr] at h hbit
      rw [ih h, hbit.2]
      bv_omega
    | blocked r₁ =>
      rw [hr] at h
      cases h
    | raise e r₁ =>
      rw [hr] at h
      cases h

/-- `r'` is where a loop from `r` stands once the lookahead and the bytes `bs` are used up, `m` bits having been read. -/
structure ReadSide.Exhausts (r : ReadSide) (m : Nat) (bs : List Byte) (rest : List SrcAnswer) (r' : ReadSide) : Prop where
  walk : ∃ q, q.length = m ∧ r.Walk q bs r'
  roff : r'.roff = 8#4
  answers : r'.answers = rest
  bcnt : r'.bcnt = r.bcnt - BitVec.ofNat 8 m

/-- A loop that is longer than the bytes handed out uses them up first. -/
theorem readLoop_exhausts {n : Nat} {r : ReadSide} {as rest : List SrcAnswer} {bs : List Byte} (hroff : r.roff.toNat ≤ 8)
    (hans : r.answers = as ++ rest) (hbs : AnswerBytes as bs) (hlen : 8 - r.roff.toNat + 8 * bs.length < n) :
    ∃ k r', readLoop n r = readLoop (k + 1) r' ∧ r.Exhausts (8 - r.roff.toNat + 8 * bs.length) bs rest r' := by
  obtain ⟨k, rfl⟩ := Nat.exists_eq_add_of_lt hlen
  obtain ⟨q, r', hrun, hq, hwalk⟩ :=
    loopReads_of_answerBytes (8 - r.roff.toNat + 8 * bs.length) hroff hans hbs (by omega)
  have hpos := hwalk.position
  refine ⟨k, r', by rw [Nat.add_assoc, readLoop_add, hrun, Micro.bind_ok], ⟨q, hq, hwalk⟩, ?_, ?_, readLoop_bcnt hrun⟩
  · exact BitVec.eq_of_toNat_eq (by simp only [BitVec.toNat_ofNat]; omega)
  · rw [hwalk.answers, hans, ← hbs.length_eq, List.drop_left]

/-- Settles O32: the loop uses up the bytes, and the next fetch raises. -/
theorem rdbitsFailsInMidCommand : Obligations.RdbitsFailsInMidCommand := by
  intro i s n as rest a bs e hi hflt hroff hn hans hbs hlen (he : a.Fails e)
  obtain ⟨j, hloop⟩ : ∃ j, LoopCommand i j n := by
    obtain rfl | ⟨rfl, rfl⟩ := hi
    · exact ⟨.rdbits, .inl ⟨rfl, rfl, hn⟩⟩
    · exact ⟨.rdbyte, .inr ⟨rfl, rfl, rfl⟩⟩
  obtain ⟨k, r, hrun, hex⟩ := readLoop_exhausts (r := s.rd.started n) hroff hans hbs hlen
  obtain ⟨q, -, hwalk⟩ := hex.walk
  have hexec : exec i s = .next { s with rd := brRaise e { r with fetches := r.fetches + 1, answers := rest } } := by
    rw [exec_loopCommand hloop hflt, hrun, readLoop_succ, readBit_of_fails hex.roff hex.answers he]
    rfl
  exact ⟨_, hexec, rfl, by simp [he.ofSource.latches], congrArg (· + 1) hwalk.fetches, rfl, hwalk.taken, hex.roff,
    hwalk.responses, rfl, rfl⟩

/-! ### A loop in two parts -/

/-- The two stand at the same place of the same stream. -/
structure ReadSide.SameSource (r r' : ReadSide) : Prop where
  cur : r'.cur = r.cur
  roff : r'.roff = r.roff
  rflt : r'.rflt = r.rflt
  answers : r'.answers = r.answers
  fetches : r'.fetches = r.fetches
  taken : r'.taken = r.taken

theorem ReadSide.SameSource.trans {r r' r'' : ReadSide} (h : r.SameSource r') (h' : r'.SameSource r'') :
    r.SameSource r'' :=
  ⟨h'.cur.trans h.cur, h'.roff.trans h.roff, h'.rflt.trans h.rflt, h'.answers.trans h.answers,
    h'.fetches.trans h.fetches, h'.taken.trans h.taken⟩

/-- What READBIT reads depends on the lookahead and the source alone. -/
theorem readBit_of_sameSource {r₁ r₂ r₁' : ReadSide} {b : Bool} (h : r₁.SameSource r₂) (hrun : readBit r₁ = .ok b r₁') :
    ∃ r₂', readBit r₂ = .ok b r₂' ∧ r₁'.SameSource r₂' ∧ r₁'.acc = r₁.acc ∧ r₂'.acc = r₂.acc := by
  obtain ⟨hne, hr⟩ | ⟨-, -, hr⟩ | ⟨a, rest, x, h8, ha, hx, hr⟩ | ⟨a, rest, e, -, -, -, hr⟩ := readBit_cases r₁
  all_goals rw [hr] at hrun; cases hrun
  · rw [readBit_lookahead (h.roff ▸ hne), extract, h.cur, h.roff]
    exact ⟨_, rfl, ⟨rfl, rfl, h.rflt, h.answers, h.fetches, h.taken⟩, rfl, rfl⟩
  · rw [readBit_of_byte (h.roff.trans h8) (h.answers.trans ha) hx, h.fetches, h.taken, shiftInBit_false]
    exact ⟨_, rfl, ⟨rfl, rfl, h.rflt, rfl, rfl, rfl⟩, rfl, rfl⟩

/-- What a loop reads depends on the lookahead and the source alone. -/
theorem readLoop_of_sameSource {k : Nat} {r₁ r₂ r₁' : ReadSide} (h : r₁.SameSource r₂) (hrun : readLoop k r₁ = .ok () r₁') :
    ∃ (q : List Bool) (r₂' : ReadSide), q.length = k ∧ readLoop k r₂ = .ok () r₂' ∧ r₁'.SameSource r₂' ∧
      r₁'.acc = q.foldl (shiftInBit 128) r₁.acc ∧ r₂'.acc = q.foldl (shiftInBit 128) r₂.acc := by
  induction k generalizing r₁ r₂ with
  | zero =>
    cases hrun
    exact ⟨[], r₂, rfl, rfl, h, rfl, rfl⟩
  | succ k ih =>
    rw [readLoop_succ] at hrun
    cases hr : readBit r₁ with
    | ok b s₁ =>
      obtain ⟨s₂, hr₂, hs, hacc₁, hacc₂⟩ := readBit_of_sameSource h hr
      rw [hr] at hrun
      obtain ⟨q, r₂', hq, hrun₂, hsame, hfold₁, hfold₂⟩ :=
        ih (r₁ := { s₁ with acc := shiftInBit 128 s₁.acc b, bcnt := s₁.bcnt - 1#8 })
          (r₂ := { s₂ with acc := shiftInBit 128 s₂.acc b, bcnt := s₂.bcnt - 1#8 })
          ⟨hs.cur, hs.roff, hs.rflt, hs.answers, hs.fetches, hs.taken⟩ hrun
      refine ⟨b :: q, r₂', congrArg (· + 1) hq, ?_, hsame, ?_, ?_⟩
      · rw [readLoop_succ, hr₂]
        exact hrun₂
      · rw [hfold₁, hacc₁, List.foldl_cons]
      · rw [hfold₂, hacc₂, List.foldl_cons]
    | blocked s₁ =>
      rw [hr] at hrun
      cases hrun
    | raise e s₁ =>
      rw [hr] at hrun
      cases hrun

theorem Err.status_ne_ok (e : Err) : e.status ≠ .ok := by cases e <;> simp [Err.status]

theorem Micro.bind_eq_ok {α β σ : Type} {m : Micro α σ} {f : α → σ → Micro β σ} {b : β} {s' : σ}
    (h : m.bind f = .ok b s') : ∃ a s, m = .ok a s ∧ f a s = .ok b s' := by
  cases m with
  | ok a s => exact ⟨a, s, rfl, h⟩
  | blocked s => cases h
  | raise e s => cases h

/-- An OK response to RDBITS: the engine was not faulted, the width was legal, and the loop ended well. -/
theorem rdbitsCommand_ok {n : Nat} {r : ReadSide} {z : Value}
    (h : (rdbitsCommand n r).phase = .responding ⟨.ok, z, 0#Config.iocodeW⟩) :
    r.rflt = false ∧ n ≤ 128 ∧ ∃ r', readLoop n (r.started n) = .ok () r' ∧ r'.acc = z ∧ rdbitsCommand n r = brOk z r' := by
  cases hflt : r.rflt with
  | true =>
    rw [rdbitsCommand, brFrame_faulted hflt] at h
    cases h
  | false =>
    by_cases hn : 128 < n
    · rw [rdbitsCommand_of_tooWide hflt hn] at h
      cases h
    · have hn : n ≤ 128 := Nat.le_of_not_lt hn
      have heq : rdbitsCommand n r = brFinish .rdbits ((readLoop n (r.started n)).bind fun _ r' => .ok r'.acc r') :=
        rdbitsCommand_eq hflt hn
      rw [heq] at h ⊢
      refine ⟨rfl, hn, ?_⟩
      cases hrun : readLoop n (r.started n) with
      | ok u r' =>
        rw [hrun] at h
        cases h
        exact ⟨r', rfl, rfl, rfl⟩
      | blocked r' =>
        rw [hrun] at h
        cases h
      | raise e r' =>
        rw [hrun, Micro.bind_raise, brFinish, brRaise_phase, BrPhase.responding.injEq, BrResponse.mk.injEq] at h
        exact absurd h.1 e.status_ne_ok

/-- Settles O34: the loop of `a + b` turns is one of `a` and one of `b`, and each reads the same bits as its command. -/
theorem rdbitsSplitsAnywhere : Obligations.RdbitsSplitsAnywhere := by
  intro s u a b z hu hz
  rw [exec_br rfl] at hu
  cases hu
  obtain ⟨hflt, hn, r, hrun, rfl, heq⟩ := rdbitsCommand_ok hz
  rw [readLoop_add] at hrun
  obtain ⟨⟨⟩, m, hfirst, hsecond⟩ := Micro.bind_eq_ok hrun
  obtain ⟨p, t, hp, ht, hmt, haccm, hacct⟩ :=
    readLoop_of_sameSource (r₁ := s.rd.started (a + b)) (r₂ := s.rd.started a) ⟨rfl, rfl, rfl, rfl, rfl, rfl⟩ hfirst
  have htaken : m.SameSource ((brResponseTaken (brOk t.acc t)).started b) :=
    ⟨hmt.cur, hmt.roff, hmt.rflt, hmt.answers, hmt.fetches, hmt.taken⟩
  obtain ⟨q, v, hq, hv, hrv, haccr, haccv⟩ := readLoop_of_sameSource htaken hsecond
  have htflt : t.rflt = false := by
    have hframe := readLoop_frame a (.refl (s.rd.started a))
    rw [ht] at hframe
    exact hframe.rflt.trans hflt
  have hx : t.acc.toNat = bitsValue p := by
    rw [hacct]
    exact toNat_foldl_shiftInBit_acc (by omega)
  have hy : v.acc.toNat = bitsValue q := by
    rw [haccv]
    exact toNat_foldl_shiftInBit_acc (by omega)
  have hz : r.acc.toNat = bitsValue (p ++ q) := by
    rw [haccr, haccm, ← List.foldl_append]
    exact toNat_foldl_shiftInBit_acc (by rw [List.length_append]; omega)
  refine ⟨_, _, t.acc, v.acc, exec_loopCommand_ok (.inl ⟨rfl, rfl, by omega⟩) hflt ht, rfl,
    exec_loopCommand_ok (.inl ⟨rfl, rfl, by omega⟩) htflt hv, rfl, ?_, ?_⟩
  · rw [hx, hy, hz, bitsValue_append, hq]
  · rw [show readerEffect (.rdbits (a + b)) s.rd = brOk r.acc r from heq]
    exact ⟨hrv.cur, hrv.roff, hrv.rflt, hrv.answers, hrv.fetches, hrv.taken⟩

end Sys2Proof.Machine
end

section
/-! When the source answers does not matter (spec/20_memory.md rule R69, spec/70_reset_and_hazards.md section 5). A command
that waits has read all it could, and the answer finds it at the READBIT that asked. -/

namespace Sys2Proof.Machine

/-! ### The phase plays no part inside a command -/

/-- The micro-operation with its states changed by `f`. -/
def Micro.map {α σ : Type} (f : σ → σ) (m : Micro α σ) : Micro α σ :=
  match m with
  | .ok a s => .ok a (f s)
  | .blocked s => .blocked (f s)
  | .raise e s => .raise e (f s)

theorem Micro.map_bind {α β σ : Type} {f : σ → σ} {m : Micro α σ} {g : α → σ → Micro β σ}
    (h : ∀ a s, g a (f s) = (g a s).map f) : (m.map f).bind g = (m.bind g).map f := by
  cases m with
  | ok a s => exact h a s
  | blocked s => rfl
  | raise e s => rfl

/-- The bit of one turn goes into ACC and off BCNT (R116). -/
def ReadSide.collected (b : Bool) (r : ReadSide) : ReadSide :=
  { r with acc := shiftInBit 128 r.acc b, bcnt := r.bcnt - 1#8 }

theorem readLoop_succ_collected (k : Nat) (r : ReadSide) :
    readLoop (k + 1) r = (readBit r).bind fun b r' => readLoop k (r'.collected b) := rfl

/-- BR in another phase. -/
def ReadSide.inPhase (p : BrPhase) (r : ReadSide) : ReadSide := { r with phase := p }

theorem refillAnswered_inPhase (p : BrPhase) (a : SrcAnswer) (r : ReadSide) :
    refillAnswered a (r.inPhase p) = (refillAnswered a r).map (ReadSide.inPhase p) := by
  unfold refillAnswered
  cases srcReply a <;> rfl

theorem refill_inPhase (p : BrPhase) (r : ReadSide) : refill (r.inPhase p) = (refill r).map (ReadSide.inPhase p) := by
  have hans : (r.inPhase p).answers = r.answers := rfl
  unfold refill
  rw [hans]
  cases r.answers with
  | nil => rfl
  | cons a rest => exact refillAnswered_inPhase p a { r with fetches := r.fetches + 1, answers := rest }

theorem readBit_inPhase (p : BrPhase) (r : ReadSide) : readBit (r.inPhase p) = (readBit r).map (ReadSide.inPhase p) := by
  by_cases h8 : r.roff = 8#4
  · have h8' : (r.inPhase p).roff = 8#4 := h8
    rw [readBit, readBit, if_pos h8, if_pos h8', refill_inPhase]
    exact Micro.map_bind fun _ _ => rfl
  · rw [readBit_lookahead h8, readBit_lookahead (r := r.inPhase p) h8]
    rfl

theorem readLoop_inPhase (p : BrPhase) (k : Nat) (r : ReadSide) :
    readLoop k (r.inPhase p) = (readLoop k r).map (ReadSide.inPhase p) := by
  induction k generalizing r with
  | zero => rfl
  | succ k ih =>
    rw [readLoop_succ_collected, readLoop_succ_collected, readBit_inPhase]
    exact Micro.map_bind fun b r' => ih (r'.collected b)

theorem brRest_inPhase (p : BrPhase) (j : BrJob) (r : ReadSide) :
    brRest j (r.inPhase p) = (brRest j r).map (ReadSide.inPhase p) := by
  cases j with
  | rdbit =>
    rw [brRest, brRest, readBit_inPhase]
    exact Micro.map_bind fun _ _ => rfl
  | rdbits =>
    rw [brRest, brRest, readLoop_inPhase]
    exact Micro.map_bind fun _ _ => rfl
  | rdbyte =>
    rw [brRest, brRest, readLoop_inPhase]
    exact Micro.map_bind fun _ _ => rfl

theorem brFinish_map_inPhase (p : BrPhase) (j : BrJob) (m : Micro Value ReadSide) :
    brFinish j (m.map (ReadSide.inPhase p)) = brFinish j m := by
  cases m <;> rfl

/-- The engine an answer leaves does not depend on the phase it found. -/
theorem brResume_inPhase (p : BrPhase) (j : BrJob) (a : SrcAnswer) (r : ReadSide) :
    brResume j a (r.inPhase p) = brResume j a r := by
  rw [brResume, refillAnswered_inPhase, Micro.map_bind fun _ r' => brRest_inPhase p j r', brFinish_map_inPhase, brResume]

/-! ### One more answer promised -/

/-- The source will also give the answer `a` without delay. -/
def ReadSide.promised (a : SrcAnswer) (r : ReadSide) : ReadSide := { r with answers := r.answers ++ [a] }

/-- The source has taken a fetch request (R53). -/
def ReadSide.fetched (r : ReadSide) : ReadSide := { r with fetches := r.fetches + 1 }

theorem readBit_promised_of_ok {r r' : ReadSide} {b : Bool} (h : readBit r = .ok b r') (a : SrcAnswer) :
    readBit (r.promised a) = .ok b (r'.promised a) := by
  obtain ⟨hne, hr⟩ | ⟨-, -, hr⟩ | ⟨x, rest, y, h8, hx, hy, hr⟩ | ⟨x, rest, e, -, -, -, hr⟩ := readBit_cases r
  all_goals rw [hr] at h; cases h
  · exact readBit_lookahead (r := r.promised a) hne
  · have hans : (r.promised a).answers = x :: (rest ++ [a]) := by simp [ReadSide.promised, hx]
    rw [readBit_of_byte (r := r.promised a) h8 hans hy, shiftInBit_false]
    rfl

theorem readBit_of_blocked {r r' : ReadSide} (h : readBit r = .blocked r') :
    r' = r ∧ r.roff = 8#4 ∧ r.answers = [] := by
  obtain ⟨-, hr⟩ | ⟨h8, hans, hr⟩ | ⟨x, rest, y, -, -, -, hr⟩ | ⟨x, rest, e, -, -, -, hr⟩ := readBit_cases r
  all_goals rw [hr] at h; cases h
  exact ⟨rfl, h8, hans⟩

/-- Where BR waits, the promised answer goes to the REFILL that asked. -/
theorem readBit_promised_of_blocked {r : ReadSide} (h8 : r.roff = 8#4) (hans : r.answers = []) (a : SrcAnswer) :
    readBit (r.promised a) = (refillAnswered a r.fetched).bind fun _ r' => readBit r' := by
  have hans' : (r.promised a).answers = [a] := by simp [ReadSide.promised, hans]
  have hstate : { r.promised a with fetches := r.fetches + 1, answers := [] } = r.fetched := by
    rw [ReadSide.fetched, ← hans]
    rfl
  rw [readBit_refill (r := r.promised a) h8 hans', show (r.promised a).fetches = r.fetches from rfl, hstate]
  unfold refillAnswered
  cases hr : srcReply a with
  | byte b => exact (readBit_lookahead (by simp)).symm
  | eos => rfl
  | ioerr c => rfl

/-- A loop that waits goes on, with the answer promised, from the turn that asked; BCNT holds the turns left. -/
theorem readLoop_promised_of_blocked {k : Nat} {r r' : ReadSide} (h : readLoop k r = .blocked r') (a : SrcAnswer) :
    ∃ k' < k, r'.bcnt = r.bcnt - BitVec.ofNat 8 (k - (k' + 1)) ∧
      readLoop k (r.promised a) = (refillAnswered a r'.fetched).bind fun _ r'' => readLoop (k' + 1) r'' := by
  induction k generalizing r with
  | zero => cases h
  | succ k ih =>
    rw [readLoop_succ_collected] at h
    cases hr : readBit r with
    | ok b r₁ =>
      rw [hr] at h
      obtain ⟨k', hlt, hbcnt, hrun⟩ := ih (r := r₁.collected b) h
      have hacc := readBit_acc_bcnt r
      rw [hr] at hacc
      refine ⟨k', by omega, ?_, ?_⟩
      · rw [hbcnt, ReadSide.collected, hacc.2, show k + 1 - (k' + 1) = k - (k' + 1) + 1 by omega, BitVec.ofNat_add]
        bv_omega
      · rw [readLoop_succ_collected, readBit_promised_of_ok hr, Micro.bind_ok]
        exact hrun
    | blocked r₁ =>
      rw [hr] at h
      cases h
      obtain ⟨rfl, h8, hans⟩ := readBit_of_blocked hr
      refine ⟨k, by omega, by simp, ?_⟩
      rw [readLoop_succ_collected, readBit_promised_of_blocked h8 hans, Micro.bind_assoc]
      rfl
    | raise e r₁ =>
      rw [hr] at h
      cases h

/-- An answer leaves BCNT. -/
theorem refillAnswered_bcnt (a : SrcAnswer) (r : ReadSide) :
    (refillAnswered a r).Leaves (fun r' => r'.bcnt = r.bcnt) fun _ => True := by
  unfold refillAnswered
  cases srcReply a <;> simp [Micro.Leaves]

/-- A loop whose turns are counted by BCNT, and which waits, with the answer promised. -/
theorem readLoop_bcnt_promised_of_blocked {r r' : ReadSide} (h : readLoop r.bcnt.toNat r = .blocked r') (a : SrcAnswer) :
    readLoop r.bcnt.toNat (r.promised a) =
      (refillAnswered a r'.fetched).bind fun _ r'' => readLoop r''.bcnt.toNat r'' := by
  obtain ⟨k', hlt, hbcnt, hrun⟩ := readLoop_promised_of_blocked h a
  have hleft : r'.fetched.bcnt.toNat = k' + 1 := by
    have hk := r.bcnt.isLt
    rw [ReadSide.fetched, hbcnt]
    bv_omega
  rw [hrun]
  refine Micro.bind_congr (refillAnswered_bcnt a _) fun _ r'' h'' => ?_
  rw [h'', hleft]

/-- A command that waits goes on, with the answer promised, as it does when the answer comes late (R69). -/
theorem brRest_promised_of_blocked {j : BrJob} {r r' : ReadSide} (h : brRest j r = .blocked r') (a : SrcAnswer) :
    brRest j (r.promised a) = (refillAnswered a r'.fetched).bind fun _ r'' => brRest j r'' := by
  cases j with
  | rdbit =>
    rw [brRest] at h ⊢
    cases hr : readBit r with
    | blocked r₁ =>
      rw [hr] at h
      cases h
      obtain ⟨rfl, h8, hans⟩ := readBit_of_blocked hr
      rw [readBit_promised_of_blocked h8 hans, Micro.bind_assoc]
      rfl
    | ok b r₁ =>
      rw [hr] at h
      cases h
    | raise e r₁ =>
      rw [hr] at h
      cases h
  | rdbits | rdbyte =>
    rw [brRest] at h ⊢
    cases hr : readLoop r.bcnt.toNat r with
    | blocked r₁ =>
      rw [hr] at h
      cases h
      rw [show (r.promised a).bcnt = r.bcnt from rfl, readLoop_bcnt_promised_of_blocked hr, Micro.bind_assoc]
      rfl
    | ok u r₁ =>
      rw [hr] at h
      cases h
    | raise e r₁ =>
      rw [hr] at h
      cases h

/-! ### The command -/

/-- BR presents a request only at the end of a stretch that waits. -/
theorem brRun_of_requesting {j : BrJob} {r : ReadSide} (h : (brRun j r).phase.isRequesting = true) :
    ∃ r', brRest j r = .blocked r' ∧ brRun j r = r'.inPhase (.requesting j) := by
  unfold brRun at h ⊢
  cases hr : brRest j r with
  | blocked r' => exact ⟨r', rfl, rfl⟩
  | ok d r' =>
    rw [hr] at h
    cases h
  | raise e r' =>
    rw [hr] at h
    cases h

/-- A command that waits is the run of its job, and with an answer promised the same run. -/
theorem readerEffect_of_requesting {i : Instr} (hi : i.port = .br) {r : ReadSide}
    (h : (readerEffect i r).phase.isRequesting = true) (a : SrcAnswer) :
    ∃ j r₁, readerEffect i r = brRun j r₁ ∧ readerEffect i (r.promised a) = brRun j (r₁.promised a) := by
  cases hflt : r.rflt with
  | true =>
    rw [readerEffect_faulted hi hflt] at h
    cases h
  | false =>
    have hflt' : (r.promised a).rflt = false := hflt
    cases i with
    | rdbit =>
      simp only [readerEffect, rdbitCommand, brFrame_unfaulted hflt, brFrame_unfaulted hflt']
      exact ⟨_, _, rfl, rfl⟩
    | rdbits n =>
      by_cases hn : 128 < n
      · rw [readerEffect, rdbitsCommand_of_tooWide hflt hn] at h
        cases h
      · simp only [readerEffect, rdbitsCommand, brFrame_unfaulted hflt, brFrame_unfaulted hflt',
          if_neg (mt (tooWide_iff n).mp hn)]
        exact ⟨_, _, rfl, rfl⟩
    | rdbyte =>
      simp only [readerEffect, rdbyteCommand, brFrame_unfaulted hflt, brFrame_unfaulted hflt']
      exact ⟨_, _, rfl, rfl⟩
    | _ => cases hi

/-- A command that waits, its request taken and answered, stands where the prompt answer would have put it. -/
theorem srcAnswered_srcAccepted {i : Instr} (hi : i.port = .br) {r : ReadSide}
    (h : (readerEffect i r).phase.isRequesting = true) (a : SrcAnswer) :
    srcAnswered a (srcAccepted (readerEffect i r)) = readerEffect i (r.promised a) := by
  obtain ⟨j, r₁, hrun, hrun'⟩ := readerEffect_of_requesting hi h a
  obtain ⟨r', hblocked, hwait⟩ := brRun_of_requesting (hrun ▸ h)
  have hresume : srcAnswered a (srcAccepted (r'.inPhase (.requesting j))) =
      brResume j a (r'.fetched.inPhase (.awaiting j)) := rfl
  rw [hrun, hrun', hwait, hresume, brResume_inPhase, brResume, brRun, brRest_promised_of_blocked hblocked]

/-- Settles O35: two steps take the request and the answer, and the answer goes to the REFILL that asked. -/
theorem lateSourceAnswerIsAsGoodAsPrompt : Obligations.LateSourceAnswerIsAsGoodAsPrompt := by
  intro i s t u a rest hi ht hwaits hu
  rw [exec_br hi] at ht hu
  cases ht
  cases hu
  have hlate := srcAnswered_srcAccepted hi hwaits a
  obtain ⟨j, hp⟩ := isRequesting_iff.mp hwaits
  have hp' : (srcAccepted (readerEffect i s.rd)).phase = .awaiting j := by rw [srcAccepted_of_requesting hp]
  have hresume : srcAnswered a (srcAccepted (readerEffect i s.rd)) = brResume j a (srcAccepted (readerEffect i s.rd)) := by
    simp only [srcAnswered, hp']
  exact ⟨hlate, _, _, step_srcAccept rfl hp, isAwaiting_iff.mpr ⟨j, hp'⟩, rfl, step_srcAnswer rfl hp',
    hresume.symm.trans hlate, rfl, rfl⟩

/-! ### How many fetches a command makes -/

/-- The bits read so far and those still to come, against the fetches made (R63). -/
theorem readBit_position {r : ReadSide} (hroff : r.roff.toNat ≤ 8) :
    (readBit r).Ends
      (fun _ r' => r'.roff.toNat ≤ 8 ∧ 1 ≤ r'.roff.toNat ∧
        r'.roff.toNat + 8 * r'.fetches = r.roff.toNat + 8 * r.fetches + 1)
      (fun r' => r'.fetches = r.fetches) fun _ r' => r'.fetches = r.fetches + 1 ∧ r.roff = 8#4 := by
  obtain ⟨hne, hr⟩ | ⟨-, -, hr⟩ | ⟨a, rest, b, h8, -, -, hr⟩ | ⟨a, rest, e, h8, -, -, hr⟩ := readBit_cases r
  all_goals rw [hr]
  · have hlt := toNat_lt_eight_of_ne hroff hne
    have hsucc := toNat_offset_succ hlt
    simp only [Micro.Ends, hsucc]
    omega
  · rfl
  · simp only [Micro.Ends, h8, BitVec.toNat_ofNat]
    omega
  · exact ⟨rfl, h8⟩

theorem readBit_fetches {r : ReadSide} (hroff : r.roff.toNat ≤ 8) :
    (readBit r).Ends (fun _ r' => 8 * r'.fetches < r.roff.toNat + 8 * r.fetches + 1)
      (fun r' => 8 * r'.fetches < r.roff.toNat + 8 * r.fetches + 1)
      fun _ r' => 8 * r'.fetches < r.roff.toNat + 8 * r.fetches + 1 := by
  refine (readBit_position hroff).mono (fun _ _ _ => by omega) (fun _ _ => by omega) ?_
  rintro e r' ⟨hfetches, h8⟩
  have : r.roff.toNat = 8 := by rw [h8]; rfl
  omega

/-- A loop makes no fetch for bits it does not read. -/
theorem readLoop_fetches {c : Nat} (k : Nat) {r : ReadSide} (hroff : r.roff.toNat ≤ 8) (hpos : k = 0 → 1 ≤ r.roff.toNat)
    (hc : r.roff.toNat + 8 * r.fetches + k ≤ c) :
    (readLoop k r).Ends (fun _ r' => 8 * r'.fetches < c) (fun r' => 8 * r'.fetches < c)
      fun _ r' => 8 * r'.fetches < c := by
  induction k generalizing r with
  | zero =>
    have := hpos rfl
    simp only [readLoop, Micro.Ends]
    omega
  | succ k ih =>
    rw [readLoop_succ_collected]
    refine Micro.Ends.bind ((readBit_position hroff).mono (fun _ _ hQ => hQ) ?_ ?_)
      fun b r' ⟨hroff', hpos', hposition⟩ => ih (r := r'.collected b) hroff' (fun _ => hpos')
        (by simp only [ReadSide.collected]; omega)
    · intro r' hfetches
      omega
    · rintro e r' ⟨hfetches, h8⟩
      have : r.roff.toNat = 8 := by rw [h8]; rfl
      omega

/-- The fetches of a stretch are those of the command it ends. -/
theorem brFinish_fetches_lt {j : BrJob} {c : Nat} {m : Micro Value ReadSide}
    (hm : m.Ends (fun _ r' => 8 * r'.fetches < c) (fun r' => 8 * r'.fetches < c) fun _ r' => 8 * r'.fetches < c) :
    8 * (brFinish j m).fetches < c := by
  cases m <;> exact hm

theorem exec_loopCommand_fetches {i : Instr} {j : BrJob} {n : Nat} (hi : LoopCommand i j n) {s t : State}
    (hflt : s.rd.rflt = false) (hpos : 1 ≤ s.rd.roff.toNat) (hle : s.rd.roff.toNat ≤ 8) (ht : exec i s = .next t) :
    t.rd.fetches ≤ s.rd.fetches + 16 := by
  rw [exec_loopCommand hi hflt] at ht
  cases ht
  have hn := hi.le
  have hloop := readLoop_fetches (c := s.rd.roff.toNat + 8 * s.rd.fetches + n) n (r := s.rd.started n) hle
    (fun _ => hpos) le_rfl
  have hlt := brFinish_fetches_lt (j := j) (hloop.bind (f := fun _ r => .ok r.acc r) fun _ _ hQ => hQ)
  simp only
  omega

/-- R63 for the fetches. -/
theorem readerEffect_fetches {i : Instr} (hi : i.port = .br) {s t : State} (hlook : s.rd.lookaheadInv)
    (ht : exec i s = .next t) : t.rd.fetches ≤ s.rd.fetches + 16 := by
  obtain ⟨hpos, hle, -⟩ := hlook
  cases hflt : s.rd.rflt with
  | true =>
    rw [exec_br hi, readerEffect_faulted hi hflt] at ht
    cases ht
    exact Nat.le_add_right _ _
  | false =>
    cases i with
    | rdbit =>
      rw [exec_rdbit hflt] at ht
      cases ht
      have hlt := brFinish_fetches_lt (j := .rdbit) ((readBit_fetches hle).bind (f := fun b r => .ok (bitResult b) r)
        fun _ _ hQ => hQ)
      simp only
      omega
    | rdbits n =>
      by_cases hn : 128 < n
      · rw [exec_br rfl, readerEffect, rdbitsCommand_of_tooWide hflt hn] at ht
        cases ht
        exact Nat.le_add_right _ _
      · exact exec_loopCommand_fetches (.inl ⟨rfl, rfl, by omega⟩) hflt hpos hle ht
    | rdbyte => exact exec_loopCommand_fetches (.inr ⟨rfl, rfl, rfl⟩) hflt hpos hle ht
    | _ => cases hi

end Sys2Proof.Machine
end

section
/-! The commands of BW in closed form: SHIFTIN, WRBYTE, FLUSH, a write that fails or waits in mid-command
(spec/41_writer.md rules R141 to R161). -/

namespace Sys2Proof.Machine

/-! ### SHIFTIN -/

theorem emit_of_nil {w : WriteSide} (h : w.answers = []) : emit w = .blocked w := by simp [emit, h]

/-- Settles O36: SHIFTIN below WOFF = 7 moves the bit in; at 7 it is an EMIT. -/
theorem byteAccumulationCycle : Obligations.ByteAccumulationCycle := by
  intro w v
  rw [← shiftInBit_eq_append]
  refine ⟨fun hle => shiftIn_partial v (by bv_omega), fun a rest h7 ha => ?_, fun h7 ha => ?_⟩
  all_goals
    have hfull : w.woff + 1#4 = 8#4 := by rw [h7]; rfl
    rw [shiftIn_full v hfull]
  · have hfails : ∀ e, a.Fails e → ∃ w', emit { w with pend := shiftInBit 8 w.pend v, woff := 8#4 } = .raise e w' ∧
        w'.requests = w.requests ++ [.write (shiftInBit 8 w.pend v)] ∧ w'.accepted = w.accepted ∧ w'.answers = rest :=
      fun e he => ⟨_, emit_of_fails (w := { w with pend := _, woff := _ }) ha he, rfl, rfl, rfl⟩
    exact ⟨fun hr => ⟨_, emit_of_accepted (w := { w with pend := _, woff := _ }) ha hr, rfl, rfl, rfl, rfl, rfl⟩,
      fun hr => hfails _ (.inl ⟨rfl, hr⟩), fun c hr => hfails _ (.inr ⟨c, rfl, hr⟩)⟩
  · exact emit_of_nil ha

/-! ### WRBITS and WRBYTE -/

/-- Settles O39: a loop of no turns touches WVAL alone. -/
theorem wrbitsOfZeroBits : Obligations.WrbitsOfZeroBits := by
  intro s v hflt
  have hexec : exec (.wrbits v 0) s = .next { s with wr := bwOk (s.wr.latched v) } := by
    rw [exec_bw rfl, writerEffect, wrbitsCommand_eq v hflt (Nat.zero_le _)]
    rfl
  exact ⟨_, hexec, rfl, rfl, rfl, rfl, rfl, rfl, rfl, rfl, rfl, rfl, rfl⟩

/-- The command `i` is a loop that writes the low `n` bits of `v`, WRBITS or WRBYTE, and waits as `j`. -/
def WriteCommand (i : Instr) (j : BwJob) (v : Value) (n : Nat) : Prop :=
  i = .wrbits v n ∧ j = .wrbits ∧ n ≤ 128 ∨ i = .wrbyte v ∧ j = .wrbyte ∧ n = 8

/-- R147 and R150 on an unfaulted BW: the loop, and then the response. -/
theorem exec_writeCommand {i : Instr} {j : BwJob} {v : Value} {n : Nat} (hi : WriteCommand i j v n) {s : State}
    (hflt : s.wr.wflt = false) :
    exec i s = .next { s with wr := bwFinish j (writeLoop n (s.wr.latched v)) } := by
  obtain ⟨rfl, rfl, hn⟩ | ⟨rfl, rfl, rfl⟩ := hi
  · rw [exec_bw rfl, writerEffect, wrbitsCommand_eq v hflt hn]
  · rw [exec_bw rfl, writerEffect, wrbyteCommand_eq v hflt]

/-- The pending bits and the top bits of a byte behind them, as one byte (R150). -/
theorem ofNat_pending_append {p v : Nat} {o : Nat} (ho : o ≤ 7) (hp : p < 2 ^ o) (hv : v < 2 ^ 8) :
    BitVec.ofNat 8 ((p * 2 ^ 8 + v) >>> o) = BitVec.ofNat 8 p <<< (8 - o) ||| BitVec.ofNat 8 v >>> o := by
  have hpow : 2 ^ 8 = 2 ^ (8 - o) * 2 ^ o := by rw [← Nat.pow_add, Nat.sub_add_cancel (by omega)]
  have hp8 : p < 2 ^ 8 := hp.trans_le (Nat.pow_le_pow_right (by decide) (by omega))
  have hlow : v / 2 ^ o < 2 ^ (8 - o) := by
    rw [Nat.div_lt_iff_lt_mul (Nat.two_pow_pos _), ← hpow]
    exact hv
  have hhigh : p * 2 ^ (8 - o) < 2 ^ 8 := by
    rw [hpow, Nat.mul_comm]
    exact Nat.mul_lt_mul_of_pos_left hp (Nat.two_pow_pos _)
  apply BitVec.eq_of_toNat_eq
  rw [BitVec.toNat_ofNat, BitVec.toNat_or, BitVec.toNat_shiftLeft, BitVec.toNat_ushiftRight, BitVec.toNat_ofNat,
    BitVec.toNat_ofNat, Nat.mod_eq_of_lt hp8, Nat.mod_eq_of_lt hv, Nat.shiftRight_eq_div_pow, Nat.shiftRight_eq_div_pow,
    Nat.shiftLeft_eq, Nat.mod_eq_of_lt hhigh]
  have hor : p * 2 ^ (8 - o) ||| v / 2 ^ o = p * 2 ^ (8 - o) + v / 2 ^ o := by
    rw [← Nat.shiftLeft_eq, Nat.shiftLeft_add_eq_or_of_lt hlow]
  have hsum : (p * 2 ^ 8 + v) / 2 ^ o = p * 2 ^ (8 - o) + v / 2 ^ o := by
    rw [hpow, ← Nat.mul_assoc, Nat.add_comm, Nat.add_mul_div_right _ _ (Nat.two_pow_pos _), Nat.add_comm]
  rw [hsum, hor, Nat.mod_eq_of_lt]
  have hle : (p + 1) * 2 ^ (8 - o) ≤ 2 ^ 8 := by
    rw [hpow, Nat.mul_comm (2 ^ (8 - o))]
    exact Nat.mul_le_mul_right _ hp
  rw [Nat.add_mul, Nat.one_mul] at hle
  omega

/-- Settles O40: the loop of eight turns packs one byte, and what is left over is below it. -/
theorem wrbyteEmitsOneByte : Obligations.WrbyteEmitsOneByte := by
  rintro s val a rest b hflt ⟨hle, hpend⟩ ha hr rfl
  have hans : (s.wr.latched val).answers = [a] ++ rest := ha
  have hdiv : (s.wr.woff.toNat + 8) / 8 = 1 := by omega
  have hmod : (s.wr.woff.toNat + 8) % 8 = s.wr.woff.toNat := by omega
  obtain ⟨w, hrun, hpacks⟩ := writeLoop_packs 8 (w := s.wr.latched val) ⟨hle, hpend⟩ hans (by simpa [AllAccepted] using hr)
    hdiv.symm
  have hexec : exec (.wrbyte val) s = .next { s with wr := bwOk w } := by
    rw [exec_writeCommand (.inr ⟨rfl, rfl, rfl⟩) hflt, hrun, bwFinish]
  have hval : val.extractLsb' 0 8 = BitVec.ofNat 8 (val.toNat % 2 ^ 8) := by
    apply BitVec.eq_of_toNat_eq
    simp
  have hbytes : packedBytes (s.wr.woff.toNat + 8) (s.wr.pend.toNat * 2 ^ 8 + val.toNat % 2 ^ 8) =
      [s.wr.pend <<< (8 - s.wr.woff.toNat) ||| val.extractLsb' 0 8 >>> s.wr.woff.toNat] := by
    rw [Nat.add_comm, packedBytes_eight_add, packedBytes_of_lt (by omega),
      ofNat_pending_append hle hpend (Nat.mod_lt _ (by decide)), ← hval, BitVec.ofNat_toNat, BitVec.setWidth_eq]
  have hwoff : w.woff = s.wr.woff := BitVec.eq_of_toNat_eq (hpacks.woff.trans hmod)
  refine ⟨_, hexec, rfl, ?_, ?_, ?_, hwoff, ?_, ?_, hpacks.wflt.trans hflt, hpacks.drained, hpacks.responses, rfl, rfl⟩
  · exact hpacks.requests.trans (congrArg (s.wr.requests ++ List.map SnkRequest.write ·) hbytes)
  · exact hpacks.accepted.trans (congrArg (s.wr.accepted ++ ·) hbytes)
  · rw [bwOk_answers, hpacks.answers, hans]
    exact congrArg (List.drop · ([a] ++ rest)) hdiv
  · have hdvd : 2 ^ s.wr.woff.toNat ∣ 2 ^ 8 := Nat.pow_dvd_pow 2 (by omega)
    have hpend' : w.pend.toNat = (s.wr.pend.toNat * 2 ^ 8 + val.toNat % 2 ^ 8) % 2 ^ ((s.wr.woff.toNat + 8) % 8) :=
      hpacks.pend
    rw [bwOk_pend, hpend', hmod, Nat.add_mod, Nat.mod_mod_of_dvd _ hdvd,
      Nat.mod_eq_zero_of_dvd (hdvd.mul_left _), Nat.zero_add, Nat.mod_mod]
  · intro h0
    have hzero : s.wr.pend = 0#8 := WriteSide.pendingInv.pend_eq_zero ⟨hle, hpend⟩ h0
    simp [h0, hzero]

/-! ### FLUSH -/

/-- R159 on an unfaulted BW. -/
theorem exec_flush {s : State} (hflt : s.wr.wflt = false) :
    exec .flush s = .next { s with wr := bwFinishFlush (padToByte s.wr) } := by
  rw [exec_bw rfl, writerEffect, flushCommand, bwFrame_unfaulted hflt]

theorem bwFinishFlush_ok (w : WriteSide) : bwFinishFlush (.ok () w) = bwFinish .flushSink (sinkFlush w) := rfl

theorem bwFinish_sinkFlush_of_done {w : WriteSide} {a : SnkAnswer} {rest : List SnkAnswer} (ha : w.answers = a :: rest)
    (hr : flushReply a = .done) :
    bwFinish .flushSink (sinkFlush w) =
      bwOk { w with requests := w.requests ++ [.flush], answers := rest, drained := w.accepted.length } := by
  simp [sinkFlush, ha, flushAnswered, hr, bwFinish]

theorem bwFinish_sinkFlush_of_ioerr {w : WriteSide} {a : SnkAnswer} {rest : List SnkAnswer} {c : IoCode}
    (ha : w.answers = a :: rest) (hr : flushReply a = .ioerr c) :
    bwFinish .flushSink (sinkFlush w) =
      bwRaise (.underlyingIOError c) { w with requests := w.requests ++ [.flush], answers := rest } := by
  simp [sinkFlush, ha, flushAnswered, hr, bwFinish]

/-- Settles O45: the padding is no operation or one EMIT, and the sink flush comes after it if it is accepted. -/
theorem flushPadsThenFlushesTheSink : Obligations.FlushPadsThenFlushesTheSink := by
  rintro s hflt ⟨hle, -⟩
  rw [exec_flush hflt]
  refine ⟨?aligned, ?unaligned, ?padFails, ?alignedFails, ?flushFails⟩
  case aligned =>
    intro a rest h0 ha hr
    rw [padToByte_aligned h0, bwFinishFlush_ok, bwFinish_sinkFlush_of_done ha hr]
    rfl
  case unaligned =>
    intro a a' rest hne ha hr hr'
    rw [padToByte_eq_emit hle hne, emit_of_accepted (w := s.wr.padded) ha hr, bwFinishFlush_ok,
      bwFinish_sinkFlush_of_done (w := s.wr.padded.emitted (a' :: rest)) rfl hr']
    exact ⟨_, rfl, rfl, List.append_assoc _ _ _, rfl, rfl, rfl, rfl, rfl, hflt, rfl, rfl, rfl, rfl⟩
  case padFails =>
    intro a rest e hne ha (he : a.Fails e)
    rw [padToByte_eq_emit hle hne, emit_of_fails (w := s.wr.padded) ha he, bwFinishFlush]
    exact ⟨_, rfl, rfl, by simp [he.latches], rfl, rfl, rfl, rfl⟩
  case alignedFails =>
    intro a rest c h0 ha hr
    rw [padToByte_aligned h0, bwFinishFlush_ok, bwFinish_sinkFlush_of_ioerr ha hr, bwRaise_of_latches rfl]
    rfl
  case flushFails =>
    intro a a' rest c hne ha hr hr'
    rw [padToByte_eq_emit hle hne, emit_of_accepted (w := s.wr.padded) ha hr, bwFinishFlush_ok,
      bwFinish_sinkFlush_of_ioerr (w := s.wr.padded.emitted (a' :: rest)) rfl hr']
    exact ⟨_, rfl, rfl, by simp [Err.latches], List.append_assoc _ _ _, rfl, rfl, rfl⟩

/-- A FLUSH that answers OK leaves BW aligned and unfaulted (R159). -/
theorem flush_ok_aligned {w : WriteSide} (hflt : w.wflt = false) (hinv : w.pendingInv)
    (h : (bwFinishFlush (padToByte w)).phase = .responding ⟨.ok, 0#Config.iocodeW⟩) :
    ∃ w', bwFinishFlush (padToByte w) = bwOk w' ∧ w'.woff = 0#4 ∧ w'.wflt = false := by
  have hends := padToByte_ends hinv
  have hframe := padToByte_frame (fl := False) (.refl _ w)
  cases hpad : padToByte w with
  | ok u w₁ =>
    rw [hpad] at h hends hframe
    rw [bwFinishFlush_ok] at h ⊢
    obtain ⟨-, hr⟩ | ⟨a, rest, -, -, hr⟩ | ⟨a, rest, c, -, -, hr⟩ := sinkFlush_cases w₁
    all_goals rw [hr] at h ⊢
    · cases h
    · exact ⟨_, rfl, hends.1, hframe.wflt.trans hflt⟩
    · cases h
  | blocked w₁ =>
    rw [hpad] at h
    cases h
  | raise e w₁ =>
    rw [hpad, bwFinishFlush, bwRaise_phase, BwPhase.responding.injEq, BwResponse.mk.injEq] at h
    exact absurd h.1 e.status_ne_ok

/-- Settles O46: the first FLUSH leaves BW aligned, where a FLUSH is the sink flush alone. -/
theorem flushTwiceAddsNoByte : Obligations.FlushTwiceAddsNoByte := by
  intro s t u hflt hinv ht hok hu
  rw [exec_flush hflt] at ht
  cases ht
  obtain ⟨w, hw, h0, hflt'⟩ := flush_ok_aligned hflt hinv hok
  simp only [hw] at hu ⊢
  rw [exec_flush (s := { s with wr := bwResponseTaken (bwOk w) }) hflt',
    padToByte_aligned (w := bwResponseTaken (bwOk w)) h0, bwFinishFlush_ok] at hu
  cases hu
  obtain ⟨-, hr⟩ | ⟨a, rest, -, -, hr⟩ | ⟨a, rest, c, -, -, hr⟩ := sinkFlush_cases (bwResponseTaken (bwOk w))
  all_goals simp only [hr]
  · exact ⟨rfl, .inl ⟨rfl, rfl⟩⟩
  · exact ⟨rfl, .inr rfl⟩
  · exact ⟨rfl, .inr rfl⟩

/-! ### A loop that outruns its accepted answers -/

/-- `w'` is where a loop that packs the `len`-bit number `x` from `w` stands when it has emitted `m` bytes and its next one
is complete (R148, R161). -/
structure WriteSide.Fills (w : WriteSide) (m len x : Nat) (w' : WriteSide) : Prop where
  requests : w'.requests = w.requests ++ ((packedBytes len x).take m).map .write
  accepted : w'.accepted = w.accepted ++ (packedBytes len x).take m
  next : (packedBytes len x)[m]? = some w'.pend
  answers : w'.answers = w.answers.drop m
  wflt : w'.wflt = w.wflt
  drained : w'.drained = w.drained
  responses : w'.responses = w.responses

theorem WriteSide.Fills.of_shiftedIn {w w' : WriteSide} {k m len x : Nat} (h : (w.shiftedIn k).Fills m len x w') :
    w.Fills m len x w' :=
  ⟨h.requests, h.accepted, h.next, h.answers, h.wflt, h.drained, h.responses⟩

/-- The byte on top of a number that begins with the byte `p`, and the bytes below it. -/
theorem packedBytes_byte_append (p : Byte) {k y : Nat} (hy : y < 2 ^ k) :
    packedBytes (8 + k) (p.toNat * 2 ^ k + y) = p :: packedBytes k y := by
  have htop : (p.toNat * 2 ^ k + y) >>> k = p.toNat := by
    rw [Nat.shiftRight_eq_div_pow, Nat.mul_comm, Nat.mul_add_div (Nat.two_pow_pos k), Nat.div_eq_of_lt hy, Nat.add_zero]
  rw [packedBytes_eight_add, Nat.mul_add_mod_of_lt hy, htop, BitVec.ofNat_toNat, BitVec.setWidth_eq]

/-- A byte emitted, and then the rest. -/
theorem WriteSide.Fills.of_emitted {w w' : WriteSide} {a : SnkAnswer} {rest : List SnkAnswer} {k y m : Nat}
    (ha : w.answers = a :: rest) (hy : y < 2 ^ k) (h : (w.emitted rest).Fills m k y w') :
    w.Fills (m + 1) (8 + k) (w.pend.toNat * 2 ^ k + y) w' := by
  have hbytes := packedBytes_byte_append w.pend hy
  refine ⟨?_, ?_, ?_, ?_, h.wflt, h.drained, h.responses⟩
  · simp [hbytes, h.requests]
  · simp [hbytes, h.accepted]
  · rw [hbytes, List.getElem?_cons_succ, h.next]
  · rw [h.answers, ha, List.drop_succ_cons, emitted_answers]

/-- A loop with fewer accepted writes than it needs comes to an EMIT that the answers `as` do not reach. -/
theorem writeLoop_fills (k : Nat) {w : WriteSide} {as rest : List SnkAnswer} (hinv : w.pendingInv)
    (hans : w.answers = as ++ rest) (has : AllAccepted as) (hlen : as.length < (w.woff.toNat + k) / 8) :
    ∃ k' w', writeLoop k w = (emit w').bind (fun _ w'' => writeLoop k' w'') ∧
      w.Fills as.length (w.woff.toNat + k) (w.pend.toNat * 2 ^ k + w.wval.toNat % 2 ^ k) w' := by
  induction k generalizing w as with
  | zero =>
    have ⟨hle, _⟩ := hinv
    omega
  | succ k ih =>
    have ⟨hle, _⟩ := hinv
    have hlow : w.wval.toNat % 2 ^ k < 2 ^ k := Nat.mod_lt _ (Nat.two_pow_pos k)
    rw [← toNat_pend_shiftedIn_mul_add hinv k]
    by_cases hlt : w.woff.toNat < 7
    · have hne : w.woff + 1#4 ≠ 8#4 := by bv_omega
      have hoff := toNat_woff_shiftedIn hinv k
      have hsum : w.woff.toNat + (k + 1) = (w.shiftedIn k).woff.toNat + k := by omega
      rw [hsum] at hlen ⊢
      obtain ⟨k', w', hrun, hfills⟩ := ih (pendingInv_shiftedIn hinv hlt k) hans has hlen
      exact ⟨k', w', (writeLoop_succ_of_partial k hne).trans hrun, hfills.of_shiftedIn⟩
    · have hfull : w.woff + 1#4 = 8#4 := by bv_omega
      have hsum : w.woff.toNat + (k + 1) = 8 + k := by omega
      rw [hsum] at hlen ⊢
      cases as with
      | nil =>
        have hturn : writeLoop (k + 1) w = (emit (w.shiftedIn k)).bind fun _ w'' => writeLoop k w'' := by
          rw [writeLoop_succ, shiftIn_full (w := { w with widx := countRegister k }) _ hfull, WriteSide.shiftedIn, hfull]
        refine ⟨k, w.shiftedIn k, hturn, ?_⟩
        constructor <;> simp [packedBytes_byte_append _ hlow, WriteSide.shiftedIn]
      | cons a as =>
        obtain ⟨ha, has⟩ := List.forall_mem_cons.mp has
        have hlen' : as.length < (0 + k) / 8 := by
          rw [List.length_cons] at hlen
          omega
        obtain ⟨k', w', hrun, hfills⟩ := ih (pendingInv_emitted (as ++ rest) (w.shiftedIn k)) rfl has hlen'
        have hrest : ((w.shiftedIn k).emitted (as ++ rest)).Fills as.length k (w.wval.toNat % 2 ^ k) w' := by
          simpa using hfills
        exact ⟨k', w', (writeLoop_succ_of_accepted k hfull hans ha).trans hrun,
          (WriteSide.Fills.of_emitted (w := w.shiftedIn k) hans hlow hrest).of_shiftedIn⟩

/-- The bytes of the writes that were made and of the one that is next, as the statements write them. -/
theorem WriteSide.Fills.bytes {w w' : WriteSide} {m len x : Nat} {bs : List Byte} (h : w.Fills m len x w')
    (hm : m < len / 8)
    (hbs : bs = (List.range (m + 1)).map fun j => BitVec.ofNat 8 (x >>> (len % 8 + 8 * (len / 8 - 1 - j)))) :
    bs = bs.take m ++ [w'.pend] ∧ w'.requests = w.requests ++ (bs.take m).map .write ∧
      w'.accepted = w.accepted ++ bs.take m := by
  have hpacked : bs = (packedBytes len x).take (m + 1) := by
    rw [hbs, packedBytes, ← List.map_take, List.take_range, Nat.min_eq_left hm]
  have htake : bs.take m = (packedBytes len x).take m := by
    rw [hpacked, List.take_take, Nat.min_eq_left (Nat.le_succ m)]
  refine ⟨?_, htake ▸ h.requests, htake ▸ h.accepted⟩
  rw [htake, hpacked, List.take_add_one, h.next, Option.toList_some]

/-- Settles O47: the loop comes to the EMIT whose answer fails. -/
theorem wrbitsFailsInMidCommand : Obligations.WrbitsFailsInMidCommand := by
  intro i s v n as rest a bs e hi hflt hinv hn hans has hlen (he : a.Fails e) hbs
  obtain ⟨j, hwrite⟩ : ∃ j, WriteCommand i j v n := by
    obtain rfl | ⟨rfl, rfl⟩ := hi
    · exact ⟨.wrbits, .inl ⟨rfl, rfl, hn⟩⟩
    · exact ⟨.wrbyte, .inr ⟨rfl, rfl, rfl⟩⟩
  obtain ⟨k, w, hrun, hfills⟩ := writeLoop_fills n (w := s.wr.latched v) hinv hans has hlen
  obtain ⟨hlast, hrequests, haccepted⟩ := hfills.bytes hlen hbs
  have hnext : w.answers = a :: rest := by rw [hfills.answers, WriteSide.latched, hans, List.drop_left]
  have hexec : exec i s = .next { s with wr := bwRaise e (w.asked rest) } := by
    rw [exec_writeCommand hwrite hflt, hrun, emit_of_fails hnext he, Micro.bind_raise, bwFinish]
  refine ⟨_, hexec, rfl, by simp [he.latches], ?_, haccepted, rfl, hfills.drained, hfills.responses, rfl, rfl⟩
  rw [hlast, List.map_append, ← List.append_assoc]
  exact congrArg (· ++ [SnkRequest.write w.pend]) hrequests

end Sys2Proof.Machine
end

section
/-! What a write sees and changes: PEND, WOFF, WIDX and the sink port. Everything else is carried along, so an unused operand
bit has no effect, a loop may be cut in two, and it does not matter when the sink answers (spec/30_encoding.md rule R86,
spec/20_memory.md rule R69, spec/95_test_vectors.md T4). -/

namespace Sys2Proof.Machine

/-! ### What a write carries along -/

/-- `x` with the pending bits, the loop counter and the sink port of `w`. -/
def WriteSide.onSink (x w : WriteSide) : WriteSide :=
  { x with
    pend := w.pend, woff := w.woff, widx := w.widx, answers := w.answers, requests := w.requests
    accepted := w.accepted, drained := w.drained }

/-- The micro-operation sees and changes only what `onSink` carries over. -/
def SinkLocal (m : WriteSide → Micro Unit WriteSide) : Prop :=
  ∀ x w : WriteSide, m (x.onSink w) = (m w).map x.onSink

theorem SinkLocal.bind {m : WriteSide → Micro Unit WriteSide} {f : WriteSide → Micro Unit WriteSide} (hm : SinkLocal m)
    (hf : SinkLocal f) : SinkLocal fun w => (m w).bind fun _ w' => f w' := fun x w => by
  simp only [hm x w]
  exact Micro.map_bind fun _ w' => hf x w'

theorem sinkLocal_emitAnswered (a : SnkAnswer) : SinkLocal (emitAnswered a) := fun x w => by
  unfold emitAnswered
  cases writeReply a <;> rfl

theorem sinkLocal_emit : SinkLocal emit := fun x w => by
  have hans : (x.onSink w).answers = w.answers := rfl
  unfold emit
  rw [hans]
  cases w.answers with
  | nil => rfl
  | cons a rest =>
    exact sinkLocal_emitAnswered a x { w with requests := w.requests ++ [.write w.pend], answers := rest }

theorem sinkLocal_shiftIn (v : Bool) : SinkLocal (shiftIn v) := fun x w => by
  by_cases hfull : w.woff + 1#4 = 8#4
  · rw [shiftIn_full v hfull, shiftIn_full (w := x.onSink w) v hfull]
    exact sinkLocal_emit x { w with pend := shiftInBit 8 w.pend v, woff := 8#4 }
  · rw [shiftIn_partial v hfull, shiftIn_partial (w := x.onSink w) v hfull]
    rfl

theorem sinkLocal_shiftLoop (bit : Nat → Bool) (k : Nat) : SinkLocal (shiftLoop bit k) := by
  induction k with
  | zero => exact fun _ _ => rfl
  | succ k ih => exact fun x w => ((sinkLocal_shiftIn (bit k)).bind ih) x { w with widx := countRegister k }

theorem sinkLocal_sinkFlush : SinkLocal sinkFlush := fun x w => by
  have hans : (x.onSink w).answers = w.answers := rfl
  unfold sinkFlush flushAnswered
  rw [hans]
  cases w.answers with
  | nil => rfl
  | cons a rest => cases hr : flushReply a <;> simp [hr, Micro.map, WriteSide.onSink]

theorem sinkLocal_flushAnswered (a : SnkAnswer) : SinkLocal (flushAnswered a) := fun x w => by
  unfold flushAnswered
  cases flushReply a <;> rfl

/-! ### Bits of the operand that no command uses -/

theorem shiftLoop_congr {bit bit' : Nat → Bool} {k : Nat} (h : ∀ i < k, bit i = bit' i) (w : WriteSide) :
    shiftLoop bit k w = shiftLoop bit' k w := by
  induction k generalizing w with
  | zero => rfl
  | succ k ih =>
    rw [shiftLoop_succ, shiftLoop_succ, h k (Nat.lt_succ_self k)]
    exact congrArg _ (funext₂ fun _ w' => ih (fun i hi => h i (Nat.lt_succ_of_lt hi)) w')

theorem valueBit_eq_of_mod_eq {v v' : Value} {n : Nat} (h : v.toNat % 2 ^ n = v'.toNat % 2 ^ n) {i : Nat} (hi : i < n) :
    valueBit v i = valueBit v' i := by
  have hbit := congrArg (Nat.testBit · i) h
  rw [valueBit, valueBit, ← BitVec.testBit_toNat, ← BitVec.testBit_toNat]
  simpa [Nat.testBit_mod_two_pow, hi] using hbit

/-- The end of a command carries WVAL along. -/
theorem bwFinish_latched_eq (j : BwJob) (v v' : Value) (w : WriteSide) (m : Micro Unit WriteSide) :
    (bwFinish j (m.map (w.latched v).onSink)).latched 0#128 =
      (bwFinish j (m.map (w.latched v').onSink)).latched 0#128 := by
  cases m <;> rfl

/-- A loop sees of the operand the bits it shifts in. -/
theorem writeLoop_latched {n : Nat} {v v' : Value} (h : v.toNat % 2 ^ n = v'.toNat % 2 ^ n) (w : WriteSide) :
    writeLoop n (w.latched v') = (shiftLoop (valueBit v) n w).map (w.latched v').onSink := by
  have hbits : ∀ i < n, valueBit v' i = valueBit v i := fun i hi => (valueBit_eq_of_mod_eq h hi).symm
  rw [writeLoop_eq_shiftLoop, shiftLoop_congr (bit := valueBit (w.latched v').wval) hbits]
  exact sinkLocal_shiftLoop _ n (w.latched v') w

theorem bwFinish_writeLoop_latched (j : BwJob) {n : Nat} {v v' : Value} (h : v.toNat % 2 ^ n = v'.toNat % 2 ^ n)
    (w : WriteSide) :
    (bwFinish j (writeLoop n (w.latched v))).latched 0#128 =
      (bwFinish j (writeLoop n (w.latched v'))).latched 0#128 := by
  rw [writeLoop_latched rfl, writeLoop_latched h]
  exact bwFinish_latched_eq j v v' w _

theorem bwFinish_shiftIn_latched (j : BwJob) {v v' : Value} (h : v.toNat % 2 = v'.toNat % 2) (w : WriteSide) :
    (bwFinish j (shiftIn (bitOperand v) (w.latched v))).latched 0#128 =
      (bwFinish j (shiftIn (bitOperand v') (w.latched v'))).latched 0#128 := by
  have hbit : bitOperand v = bitOperand v' := valueBit_eq_of_mod_eq (n := 1) h Nat.zero_lt_one
  have hlocal : ∀ v, shiftIn (bitOperand v') (w.latched v) = (shiftIn (bitOperand v') w).map (w.latched v).onSink :=
    fun v => sinkLocal_shiftIn _ (w.latched v) w
  rw [hbit, hlocal v, hlocal v']
  exact bwFinish_latched_eq j v v' w _

/-- Settles O42: the bits shifted in are the same, and WVAL is carried along. -/
theorem unusedOperandBitsAreIgnored : Obligations.UnusedOperandBitsAreIgnored := by
  intro s t u v v' n
  have hstate : ∀ {w w' : WriteSide}, w.latched 0#128 = w'.latched 0#128 →
      ({ s with wr := w.latched 0#128 } : State) = { s with wr := w'.latched 0#128 } :=
    fun h => congrArg (fun w => { s with wr := w }) h
  cases hflt : s.wr.wflt with
  | true =>
    have hrefuse : ∀ i : Instr, i.port = .bw → exec i s = .next { s with wr := bwRefuse .engineFaulted s.wr } :=
      fun i hi => by rw [exec_bw hi, writerEffect_faulted hi hflt]
    refine ⟨fun _ ht hu => ?_, fun _ ht hu => ?_, fun _ ht hu => ?_⟩
    all_goals
      rw [hrefuse _ rfl] at ht hu
      cases ht
      cases hu
      rfl
  | false =>
    refine ⟨fun h ht hu => ?wrbit, fun h ht hu => ?wrbits, fun h ht hu => ?wrbyte⟩
    case wrbit =>
      rw [exec_wrbit _ hflt] at ht hu
      cases ht
      cases hu
      exact hstate (bwFinish_shiftIn_latched .wrbit h s.wr)
    case wrbits =>
      by_cases hn : 128 < n
      · rw [exec_bw rfl, writerEffect, wrbitsCommand_of_tooWide _ hflt hn] at ht hu
        cases ht
        cases hu
        rfl
      · rw [exec_writeCommand (.inl ⟨rfl, rfl, Nat.le_of_not_lt hn⟩) hflt] at ht hu
        cases ht
        cases hu
        exact hstate (bwFinish_writeLoop_latched .wrbits h s.wr)
    case wrbyte =>
      rw [exec_writeCommand (.inr ⟨rfl, rfl, rfl⟩) hflt] at ht hu
      cases ht
      cases hu
      exact hstate (bwFinish_writeLoop_latched .wrbyte h s.wr)

/-! ### A loop in two parts -/

/-- The two have the same bits pending before the same sink. -/
structure WriteSide.SameSink (w w' : WriteSide) : Prop where
  pend : w'.pend = w.pend
  woff : w'.woff = w.woff
  wflt : w'.wflt = w.wflt
  answers : w'.answers = w.answers
  requests : w'.requests = w.requests
  accepted : w'.accepted = w.accepted
  drained : w'.drained = w.drained

/-- What SHIFTIN does to the sink depends on the pending bits and the sink alone. -/
theorem shiftIn_of_sameSink {v : Bool} {w₁ w₂ u₁ : WriteSide} (h : w₁.SameSink w₂) (hrun : shiftIn v w₁ = .ok () u₁) :
    ∃ u₂, shiftIn v w₂ = .ok () u₂ ∧ u₁.SameSink u₂ := by
  by_cases hfull : w₁.woff + 1#4 = 8#4
  · rw [shiftIn_full v hfull] at hrun
    rw [shiftIn_full v (h.woff ▸ hfull), h.pend]
    obtain ⟨-, hr⟩ | ⟨a, rest, ha, hacc, hr⟩ | ⟨a, rest, e, -, -, hr⟩ :=
      emit_cases { w₁ with pend := shiftInBit 8 w₁.pend v, woff := 8#4 }
    all_goals rw [hr] at hrun; cases hrun
    refine ⟨_, emit_of_accepted (h.answers.trans ha) hacc, ⟨rfl, rfl, h.wflt, rfl, ?_, ?_, h.drained⟩⟩
    · exact congrArg (· ++ _) h.requests
    · exact congrArg (· ++ _) h.accepted
  · rw [shiftIn_partial v hfull] at hrun
    cases hrun
    rw [shiftIn_partial v (h.woff ▸ hfull), h.pend, h.woff]
    exact ⟨_, rfl, ⟨rfl, rfl, h.wflt, h.answers, h.requests, h.accepted, h.drained⟩⟩

/-- The first `a` turns of a loop of `a + b` are a loop of their own over the bits from `b` up. -/
theorem shiftLoop_add_of_sameSink {bit : Nat → Bool} {a b : Nat} {w₁ w₂ u : WriteSide} (h : w₁.SameSink w₂)
    (hrun : shiftLoop bit (a + b) w₁ = .ok () u) :
    ∃ m₁ m₂, shiftLoop (fun i => bit (i + b)) a w₂ = .ok () m₂ ∧ m₁.SameSink m₂ ∧ shiftLoop bit b m₁ = .ok () u := by
  induction a generalizing w₁ w₂ with
  | zero => exact ⟨w₁, w₂, rfl, h, by rwa [Nat.zero_add] at hrun⟩
  | succ a ih =>
    rw [Nat.add_right_comm, shiftLoop_succ] at hrun
    obtain ⟨⟨⟩, s₁, hturn, hrest⟩ := Micro.bind_eq_ok hrun
    have hstart : { w₁ with widx := countRegister (a + b) }.SameSink { w₂ with widx := countRegister a } :=
      ⟨h.pend, h.woff, h.wflt, h.answers, h.requests, h.accepted, h.drained⟩
    obtain ⟨s₂, hturn₂, hs⟩ := shiftIn_of_sameSink hstart hturn
    obtain ⟨m₁, m₂, hrun₂, hm, hlast⟩ := ih hs hrest
    exact ⟨m₁, m₂, by rw [shiftLoop_succ, hturn₂, Micro.bind_ok, hrun₂], hm, hlast⟩

theorem shiftLoop_of_sameSink {bit : Nat → Bool} {k : Nat} {w₁ w₂ u₁ : WriteSide} (h : w₁.SameSink w₂)
    (hrun : shiftLoop bit k w₁ = .ok () u₁) : ∃ u₂, shiftLoop bit k w₂ = .ok () u₂ ∧ u₁.SameSink u₂ := by
  obtain ⟨m₁, m₂, hrun₂, hm, hlast⟩ := shiftLoop_add_of_sameSink (b := 0) h hrun
  cases hlast
  exact ⟨m₂, hrun₂, hm⟩

/-- An OK response to WRBITS: the engine was not faulted, the width was legal, and the loop ended well. -/
theorem wrbitsCommand_ok {n : Nat} {v : Value} {w : WriteSide}
    (h : (wrbitsCommand v n w).phase = .responding ⟨.ok, 0#Config.iocodeW⟩) :
    w.wflt = false ∧ n ≤ 128 ∧ ∃ w', writeLoop n (w.latched v) = .ok () w' ∧ wrbitsCommand v n w = bwOk w' := by
  cases hflt : w.wflt with
  | true =>
    rw [wrbitsCommand, bwFrame_faulted hflt] at h
    cases h
  | false =>
    by_cases hn : 128 < n
    · rw [wrbitsCommand_of_tooWide v hflt hn] at h
      cases h
    · have hn : n ≤ 128 := Nat.le_of_not_lt hn
      rw [wrbitsCommand_eq v hflt hn] at h ⊢
      refine ⟨rfl, hn, ?_⟩
      cases hrun : writeLoop n (w.latched v) with
      | ok u w' => exact ⟨w', rfl, rfl⟩
      | blocked w' =>
        rw [hrun] at h
        cases h
      | raise e w' =>
        rw [hrun, bwFinish, bwRaise_phase, BwPhase.responding.injEq, BwResponse.mk.injEq] at h
        exact absurd h.1 e.status_ne_ok

/-- A loop that ends well is the command's OK response. -/
theorem exec_wrbits_ok {s : State} {v : Value} {n : Nat} {w : WriteSide} (hflt : s.wr.wflt = false) (hn : n ≤ 128)
    (hrun : writeLoop n (s.wr.latched v) = .ok () w) : exec (.wrbits v n) s = .next { s with wr := bwOk w } := by
  rw [exec_writeCommand (.inl ⟨rfl, rfl, hn⟩) hflt, hrun, bwFinish]

theorem valueBit_ushiftRight (v : Value) (b i : Nat) : valueBit (v >>> b) i = valueBit v (i + b) := by
  simp [valueBit, Nat.add_comm]

/-- Settles O49: the loop of `a + b` turns is one of `a` and one of `b`, and each does to the sink what its command does. -/
theorem wrbitsSplitsAnywhere : Obligations.WrbitsSplitsAnywhere := by
  intro s u v a b hu hok
  rw [exec_bw rfl] at hu
  cases hu
  obtain ⟨hflt, hn, r, hrun, heq⟩ := wrbitsCommand_ok hok
  rw [writeLoop_eq_shiftLoop] at hrun
  obtain ⟨m, t, hfirst, hmt, hsecond⟩ := shiftLoop_add_of_sameSink
    (w₁ := s.wr.latched v) (w₂ := s.wr.latched (v >>> b)) ⟨rfl, rfl, rfl, rfl, rfl, rfl, rfl⟩ hrun
  have ht : writeLoop a (s.wr.latched (v >>> b)) = .ok () t := by
    rw [writeLoop_eq_shiftLoop, ← hfirst]
    exact shiftLoop_congr (fun i _ => valueBit_ushiftRight v b i) _
  have htaken : m.SameSink ((bwResponseTaken (bwOk t)).latched v) :=
    ⟨hmt.pend, hmt.woff, hmt.wflt, hmt.answers, hmt.requests, hmt.accepted, hmt.drained⟩
  obtain ⟨w, hw, hrw⟩ := shiftLoop_of_sameSink htaken hsecond
  have hw' : writeLoop b ((bwResponseTaken (bwOk t)).latched v) = .ok () w := by rw [writeLoop_eq_shiftLoop]; exact hw
  have htflt : t.wflt = false := by
    have hframe := writeLoop_frame a (s.wr.latched (v >>> b))
    rw [ht] at hframe
    exact hframe.wflt.trans hflt
  refine ⟨_, _, exec_wrbits_ok hflt (by omega) ht, rfl, exec_wrbits_ok htflt (by omega) hw', rfl, ?_⟩
  rw [show writerEffect (.wrbits v (a + b)) s.wr = bwOk r from heq]
  exact ⟨hrw.pend, hrw.woff, hrw.wflt, hrw.answers, hrw.requests, hrw.accepted, hrw.drained⟩

end Sys2Proof.Machine
end

section
/-! When the sink answers does not matter (spec/20_memory.md rule R69, spec/70_reset_and_hazards.md section 5), and how many
requests a command makes (spec/20_memory.md rule R63). -/

namespace Sys2Proof.Machine

/-! ### The phase plays no part inside a command -/

/-- BW in another phase. -/
def WriteSide.inPhase (p : BwPhase) (w : WriteSide) : WriteSide := { w with phase := p }

theorem bwFinish_map_inPhase (p : BwPhase) (j : BwJob) (x : WriteSide) (m : Micro Unit WriteSide) :
    bwFinish j (m.map (x.inPhase p).onSink) = bwFinish j (m.map x.onSink) := by
  cases m <;> rfl

theorem bwFinish_inPhase {m : WriteSide → Micro Unit WriteSide} (hm : SinkLocal m) (p : BwPhase) (j : BwJob)
    (w : WriteSide) : bwFinish j (m (w.inPhase p)) = bwFinish j (m w) := by
  calc bwFinish j (m (w.inPhase p))
      = bwFinish j ((m w).map (w.inPhase p).onSink) := congrArg (bwFinish j) (hm (w.inPhase p) w)
    _ = bwFinish j ((m w).map w.onSink) := bwFinish_map_inPhase p j w (m w)
    _ = bwFinish j (m w) := congrArg (bwFinish j) (hm w w).symm

theorem bwFinishFlush_map_inPhase (p : BwPhase) (x : WriteSide) (m : Micro Unit WriteSide) :
    bwFinishFlush (m.map (x.inPhase p).onSink) = bwFinishFlush (m.map x.onSink) := by
  cases m with
  | ok u w => exact bwFinish_inPhase sinkLocal_sinkFlush p .flushSink (x.onSink w)
  | blocked w => rfl
  | raise e w => rfl

theorem bwFinishFlush_inPhase {m : WriteSide → Micro Unit WriteSide} (hm : SinkLocal m) (p : BwPhase) (w : WriteSide) :
    bwFinishFlush (m (w.inPhase p)) = bwFinishFlush (m w) := by
  calc bwFinishFlush (m (w.inPhase p))
      = bwFinishFlush ((m w).map (w.inPhase p).onSink) := congrArg bwFinishFlush (hm (w.inPhase p) w)
    _ = bwFinishFlush ((m w).map w.onSink) := bwFinishFlush_map_inPhase p w (m w)
    _ = bwFinishFlush (m w) := congrArg bwFinishFlush (hm w w).symm

/-- A loop that goes on after an answer, its turns counted by WIDX. -/
def resumedLoop (bit : Nat → Bool) (a : SnkAnswer) (w : WriteSide) : Micro Unit WriteSide :=
  (emitAnswered a w).bind fun _ w' => shiftLoop bit w'.widx.toNat w'

theorem sinkLocal_resumedLoop (bit : Nat → Bool) (a : SnkAnswer) : SinkLocal (resumedLoop bit a) :=
  (sinkLocal_emitAnswered a).bind (f := fun w => shiftLoop bit w.widx.toNat w) fun x w =>
    sinkLocal_shiftLoop bit w.widx.toNat x w

theorem emitAnswered_wval_widx (a : SnkAnswer) (w : WriteSide) :
    (emitAnswered a w).Leaves (fun w' => w'.wval = w.wval ∧ w'.widx = w.widx) fun _ => True := by
  unfold emitAnswered
  cases writeReply a <;> simp [Micro.Leaves]

theorem resumed_writeLoop (a : SnkAnswer) (w : WriteSide) :
    ((emitAnswered a w).bind fun _ w' => writeLoop w'.widx.toNat w') = resumedLoop (valueBit w.wval) a w :=
  Micro.bind_congr (emitAnswered_wval_widx a w) fun _ w' h => by rw [writeLoop_eq_shiftLoop, h.1]

theorem resumed_padLoop (a : SnkAnswer) (w : WriteSide) :
    ((emitAnswered a w).bind fun _ w' => padLoop w'.widx.toNat w') = resumedLoop (fun _ => false) a w := by
  simp only [resumedLoop, padLoop_eq_shiftLoop]

/-- The engine an answer leaves does not depend on the phase it found. -/
theorem bwResume_inPhase (p : BwPhase) (j : BwJob) (a : SnkAnswer) (w : WriteSide) :
    bwResume j a (w.inPhase p) = bwResume j a w := by
  cases j with
  | wrbit | fpad => exact bwFinish_inPhase (sinkLocal_emitAnswered a) p _ w
  | wrbits | wrbyte =>
    simp only [bwResume, resumed_writeLoop]
    exact bwFinish_inPhase (sinkLocal_resumedLoop (valueBit w.wval) a) p _ w
  | pad =>
    simp only [bwResume, resumed_padLoop]
    exact bwFinish_inPhase (sinkLocal_resumedLoop _ a) p _ w
  | flushPad =>
    simp only [bwResume, resumed_padLoop]
    exact bwFinishFlush_inPhase (sinkLocal_resumedLoop _ a) p w
  | flushSink => exact bwFinish_inPhase (sinkLocal_flushAnswered a) p _ w

/-! ### One more answer promised -/

/-- The sink will also give the answer `a` without delay. -/
def WriteSide.promised (a : SnkAnswer) (w : WriteSide) : WriteSide := { w with answers := w.answers ++ [a] }

/-- The sink has taken the request `q` (R58). -/
def WriteSide.sent (q : SnkRequest) (w : WriteSide) : WriteSide := { w with requests := w.requests ++ [q] }

/-- Where nothing more is promised, the one answer `a` is used up by the request `q`. -/
theorem sent_eq_of_promised {w : WriteSide} (h : w.answers = []) (a : SnkAnswer) (q : SnkRequest) :
    { w.promised a with requests := w.requests ++ [q], answers := [] } = w.sent q := by
  rw [WriteSide.sent, ← h]
  rfl

/-- An EMIT with one more answer promised: where it waited, the answer goes to it. -/
theorem emit_promised (a : SnkAnswer) (w : WriteSide) :
    (emit w).Ends (fun _ w' => emit (w.promised a) = .ok () (w'.promised a))
      (fun w' => emit (w.promised a) = emitAnswered a (w'.sent (.write w'.pend))) fun _ _ => True := by
  obtain ⟨hans, hr⟩ | ⟨x, rest, hx, hacc, hr⟩ | ⟨x, rest, e, -, -, hr⟩ := emit_cases w
  all_goals rw [hr]
  · have hans' : (w.promised a).answers = [a] := by simp [WriteSide.promised, hans]
    simp only [Micro.Ends, ← sent_eq_of_promised hans a, emit, hans']
    rfl
  · have hans' : (w.promised a).answers = x :: (rest ++ [a]) := by simp [WriteSide.promised, hx]
    exact emit_of_accepted hans' hacc
  · trivial

theorem shiftIn_promised (v : Bool) (a : SnkAnswer) (w : WriteSide) :
    (shiftIn v w).Ends (fun _ w' => shiftIn v (w.promised a) = .ok () (w'.promised a))
      (fun w' => shiftIn v (w.promised a) = emitAnswered a (w'.sent (.write w'.pend))) fun _ _ => True := by
  by_cases hfull : w.woff + 1#4 = 8#4
  · rw [shiftIn_full v hfull, shiftIn_full (w := w.promised a) v hfull]
    exact emit_promised a { w with pend := shiftInBit 8 w.pend v, woff := 8#4 }
  · rw [shiftIn_partial v hfull, shiftIn_partial (w := w.promised a) v hfull]
    rfl

/-- A loop with one more answer promised: where it waited, it goes on with the turns WIDX counts. -/
theorem shiftLoop_promised (bit : Nat → Bool) (a : SnkAnswer) {k : Nat} (hk : k ≤ 256) (w : WriteSide) :
    (shiftLoop bit k w).Ends (fun _ w' => shiftLoop bit k (w.promised a) = .ok () (w'.promised a))
      (fun w' => shiftLoop bit k (w.promised a) = resumedLoop bit a (w'.sent (.write w'.pend))) fun _ _ => True := by
  induction k generalizing w with
  | zero => rfl
  | succ k ih =>
    have hturn := (shiftIn_promised (bit k) a { w with widx := countRegister k }).and_leaves (shiftIn_wval_widx _ _)
    have hstart : shiftLoop bit (k + 1) (w.promised a) =
        (shiftIn (bit k) ({ w with widx := countRegister k }.promised a)).bind fun _ w' => shiftLoop bit k w' := rfl
    rw [shiftLoop_succ, hstart]
    refine Micro.Ends.bind (hturn.mono (fun _ _ hQ => hQ) ?_ fun _ _ _ => trivial) fun _ w' hQ => ?_
    · rintro w' ⟨hrun, -, hwidx⟩
      rw [hrun]
      refine Micro.bind_congr (emitAnswered_wval_widx a _) fun _ w'' h'' => ?_
      rw [h''.2, WriteSide.sent, hwidx, toNat_countRegister (by omega)]
    · rw [hQ.1, Micro.bind_ok]
      exact ih (by omega) w'

theorem writeLoop_promised (a : SnkAnswer) {n : Nat} (hn : n ≤ 256) (w : WriteSide) :
    (writeLoop n w).Ends (fun _ _ => True)
      (fun w' => writeLoop n (w.promised a) =
        (emitAnswered a (w'.sent (.write w'.pend))).bind fun _ w'' => writeLoop w''.widx.toNat w'') fun _ _ => True := by
  have hloop := (shiftLoop_promised (valueBit w.wval) a hn w).and_leaves
    (shiftLoop_frame (fl := False) (valueBit w.wval) n (.refl _ w))
  rw [writeLoop_eq_shiftLoop, writeLoop_eq_shiftLoop n (w.promised a)]
  refine hloop.mono (fun _ _ _ => trivial) ?_ fun _ _ _ => trivial
  rintro w' ⟨hrun, hframe⟩
  rw [resumed_writeLoop, show (w'.sent (.write w'.pend)).wval = w.wval from hframe.wval]
  exact hrun

theorem padToByte_promised (a : SnkAnswer) (w : WriteSide) :
    (padToByte w).Ends (fun _ w' => padToByte (w.promised a) = .ok () (w'.promised a))
      (fun w' => padToByte (w.promised a) =
        (emitAnswered a (w'.sent (.write w'.pend))).bind fun _ w'' => padLoop w''.widx.toNat w'') fun _ _ => True := by
  by_cases h0 : w.woff = 0#4
  · rw [padToByte_aligned h0]
    exact padToByte_aligned (w := w.promised a) h0
  · rw [padToByte_partial h0, padToByte_partial (w := w.promised a) h0, padLoop_eq_shiftLoop, padLoop_eq_shiftLoop]
    refine (shiftLoop_promised _ a ?_ w).mono (fun _ _ hQ => hQ) (fun w' hB => ?_) fun _ _ _ => trivial
    · exact (8#4 - w.woff).isLt.le.trans (by decide)
    · rw [resumed_padLoop]
      exact hB

theorem sinkFlush_promised (a : SnkAnswer) (w : WriteSide) :
    (sinkFlush w).Ends (fun _ _ => True) (fun w' => sinkFlush (w.promised a) = flushAnswered a (w'.sent .flush))
      fun _ _ => True := by
  obtain ⟨hans, hr⟩ | ⟨x, rest, -, -, hr⟩ | ⟨x, rest, c, -, -, hr⟩ := sinkFlush_cases w
  all_goals rw [hr]
  · have hans' : (w.promised a).answers = [a] := by simp [WriteSide.promised, hans]
    simp only [Micro.Ends, ← sent_eq_of_promised hans a, sinkFlush, hans']
    rfl
  · trivial
  · trivial

/-! ### The command -/

/-- BW waits after the command `i`, and the answer `a` promised to it goes to the request it waits with. -/
def WaitsFor (i : Instr) (a : SnkAnswer) (w : WriteSide) : Prop :=
  ∃ (j : BwJob) (w' : WriteSide), writerEffect i w = w'.inPhase (.requesting j) ∧
    writerEffect i (w.promised a) = bwResume j a (w'.sent (bwRequest j w'))

/-- BW presents a request only at the end of a stretch that waits. -/
theorem bwFinish_of_requesting {j : BwJob} {m : Micro Unit WriteSide} (h : (bwFinish j m).phase.isRequesting = true)
    {Q : WriteSide → Prop} (hm : m.Ends (fun _ _ => True) Q fun _ _ => True) :
    ∃ w', bwFinish j m = w'.inPhase (.requesting j) ∧ Q w' := by
  cases m with
  | blocked w' => exact ⟨w', rfl, hm⟩
  | ok u w' => cases h
  | raise e w' => cases h

theorem waitsFor_flush {w : WriteSide} (hflt : w.wflt = false)
    (h : (bwFinishFlush (padToByte w)).phase.isRequesting = true) (a : SnkAnswer) : WaitsFor .flush a w := by
  have hpromised := padToByte_promised a w
  simp only [WaitsFor, writerEffect, flushCommand, bwFrame_unfaulted hflt,
    bwFrame_unfaulted (w := w.promised a) hflt]
  cases hpad : padToByte w with
  | ok u w₁ =>
    rw [hpad] at h hpromised
    obtain ⟨w', hwait, hrun⟩ := bwFinish_of_requesting (j := .flushSink) h (sinkFlush_promised a w₁)
    rw [show padToByte (w.promised a) = .ok () (w₁.promised a) from hpromised, bwFinishFlush_ok, bwFinishFlush_ok, hrun]
    exact ⟨.flushSink, w', hwait, rfl⟩
  | blocked w' =>
    rw [hpad] at hpromised
    exact ⟨.flushPad, w', rfl, congrArg bwFinishFlush hpromised⟩
  | raise e w' =>
    rw [hpad] at h
    cases h

/-- A command that waits does so in the form of `WaitsFor`. -/
theorem waitsFor_of_requesting {i : Instr} (hi : i.port = .bw) {w : WriteSide}
    (h : (writerEffect i w).phase.isRequesting = true) (a : SnkAnswer) : WaitsFor i a w := by
  cases hflt : w.wflt with
  | true =>
    rw [writerEffect_faulted hi hflt] at h
    cases h
  | false =>
    have hflt' : (w.promised a).wflt = false := hflt
    cases i with
    | wrbit val =>
      simp only [WaitsFor, writerEffect, wrbitCommand, bwFrame_unfaulted hflt, bwFrame_unfaulted hflt'] at h ⊢
      obtain ⟨w', hwait, hrun⟩ := bwFinish_of_requesting h
        ((shiftIn_promised (bitOperand val) a (w.latched val)).mono (fun _ _ _ => trivial) (fun _ hB => hB)
          fun _ _ _ => trivial)
      exact ⟨.wrbit, w', hwait, congrArg (bwFinish .wrbit) hrun⟩
    | wrbits val n =>
      by_cases hn : 128 < n
      · rw [writerEffect, wrbitsCommand_of_tooWide val hflt hn] at h
        cases h
      · have hn : n ≤ 128 := Nat.le_of_not_lt hn
        simp only [WaitsFor, writerEffect, wrbitsCommand_eq val hflt hn, wrbitsCommand_eq val hflt' hn] at h ⊢
        obtain ⟨w', hwait, hrun⟩ := bwFinish_of_requesting h (writeLoop_promised a (by omega) (w.latched val))
        exact ⟨.wrbits, w', hwait, congrArg (bwFinish .wrbits) hrun⟩
    | wrbyte val =>
      simp only [WaitsFor, writerEffect, wrbyteCommand_eq val hflt, wrbyteCommand_eq val hflt'] at h ⊢
      obtain ⟨w', hwait, hrun⟩ := bwFinish_of_requesting h (writeLoop_promised a (by decide) (w.latched val))
      exact ⟨.wrbyte, w', hwait, congrArg (bwFinish .wrbyte) hrun⟩
    | pad =>
      simp only [WaitsFor, writerEffect, padCommand, bwFrame_unfaulted hflt, bwFrame_unfaulted hflt'] at h ⊢
      obtain ⟨w', hwait, hrun⟩ := bwFinish_of_requesting h
        ((padToByte_promised a w).mono (fun _ _ _ => trivial) (fun _ hB => hB) fun _ _ _ => trivial)
      exact ⟨.pad, w', hwait, congrArg (bwFinish .pad) hrun⟩
    | fpad =>
      simp only [WaitsFor, writerEffect, fpadCommand, bwFrame_unfaulted hflt, bwFrame_unfaulted hflt'] at h ⊢
      obtain ⟨w', hwait, hrun⟩ := bwFinish_of_requesting h
        ((emit_promised a w).mono (fun _ _ _ => trivial) (fun _ hB => hB) fun _ _ _ => trivial)
      exact ⟨.fpad, w', hwait, congrArg (bwFinish .fpad) hrun⟩
    | flush =>
      rw [writerEffect, flushCommand, bwFrame_unfaulted hflt] at h
      exact waitsFor_flush hflt h a
    | _ => cases hi

theorem bwRequest_inPhase (p : BwPhase) (j : BwJob) (w : WriteSide) : bwRequest j (w.inPhase p) = bwRequest j w := by
  cases j <;> rfl

/-- A command that waits, its request taken and answered, stands where the prompt answer would have put it. -/
theorem snkAnswered_snkAccepted {i : Instr} (hi : i.port = .bw) {w : WriteSide}
    (h : (writerEffect i w).phase.isRequesting = true) (a : SnkAnswer) :
    snkAnswered a (snkAccepted (writerEffect i w)) = writerEffect i (w.promised a) := by
  obtain ⟨j, w', hwait, hrun⟩ := waitsFor_of_requesting hi h a
  have hresume : snkAnswered a (snkAccepted (w'.inPhase (.requesting j))) =
      bwResume j a ((w'.sent (bwRequest j (w'.inPhase (.requesting j)))).inPhase (.awaiting j)) := rfl
  rw [hwait, hresume, bwRequest_inPhase, bwResume_inPhase, hrun]

/-- Settles O50: two steps take the request and the answer, and the answer goes to the request that asked. -/
theorem lateSinkAnswerIsAsGoodAsPrompt : Obligations.LateSinkAnswerIsAsGoodAsPrompt := by
  intro i s t u a rest hi ht hwaits hu
  rw [exec_bw hi] at ht hu
  cases ht
  cases hu
  have hlate := snkAnswered_snkAccepted hi hwaits a
  obtain ⟨j, hp⟩ := isRequesting_iff'.mp hwaits
  have hp' : (snkAccepted (writerEffect i s.wr)).phase = .awaiting j := by rw [snkAccepted_of_requesting hp]
  have hresume : snkAnswered a (snkAccepted (writerEffect i s.wr)) = bwResume j a (snkAccepted (writerEffect i s.wr)) := by
    simp only [snkAnswered, hp']
  exact ⟨hlate, _, _, step_snkAccept rfl hp, isAwaiting_iff'.mpr ⟨j, hp'⟩, rfl, step_snkAnswer rfl hp',
    hresume.symm.trans hlate, rfl, rfl⟩

/-! ### How many writes a command makes -/

/-- The number of WRITE requests made (R63). -/
def WriteSide.written (w : WriteSide) : Nat := (writtenBytes w.requests).length

theorem written_of_write {w w' : WriteSide} (b : Byte) (h : w'.requests = w.requests ++ [.write b]) :
    w'.written = w.written + 1 := by
  rw [WriteSide.written, h, writtenBytes_append, List.length_append]
  rfl

/-- EMIT makes at most one WRITE request, and none where it waits. -/
theorem emit_written (w : WriteSide) :
    (emit w).Ends (fun _ w' => w'.woff = 0#4 ∧ w'.written = w.written + 1) (fun w' => w'.written = w.written)
      fun _ w' => w'.written = w.written + 1 := by
  obtain ⟨-, hr⟩ | ⟨a, rest, -, -, hr⟩ | ⟨a, rest, e, -, -, hr⟩ := emit_cases w
  all_goals rw [hr]
  · rfl
  · exact ⟨rfl, written_of_write w.pend rfl⟩
  · exact written_of_write w.pend rfl

/-- The bits pending and the bytes offered count the bits shifted in (R63, R143). -/
theorem shiftIn_position (v : Bool) {w : WriteSide} (hle : w.woff.toNat ≤ 7) :
    (shiftIn v w).Ends
      (fun _ w' => w'.woff.toNat ≤ 7 ∧ w'.woff.toNat + 8 * w'.written = w.woff.toNat + 8 * w.written + 1)
      (fun w' => w'.written = w.written) fun _ w' => 8 * w'.written = w.woff.toNat + 8 * w.written + 1 := by
  by_cases hfull : w.woff + 1#4 = 8#4
  · have h7 : w.woff.toNat = 7 := by bv_omega
    rw [shiftIn_full v hfull]
    refine (emit_written _).mono ?_ (fun _ hB => hB) ?_
    · rintro _ w' ⟨h0, hcount⟩
      have hcount : w'.written = w.written + 1 := hcount
      simp only [h0, BitVec.toNat_ofNat]
      omega
    · intro e w' hcount
      have hcount : w'.written = w.written + 1 := hcount
      omega
  · have hlt : w.woff.toNat < 7 := by bv_omega
    have hsucc := toNat_offset_succ (o := w.woff) (by omega)
    rw [shiftIn_partial v hfull]
    simp only [Micro.Ends, hsucc]
    exact ⟨hlt, by simp only [WriteSide.written]; omega⟩

/-- A loop offers no byte for bits it does not shift in. -/
theorem shiftLoop_written {c : Nat} (bit : Nat → Bool) (k : Nat) {w : WriteSide} (hle : w.woff.toNat ≤ 7)
    (hc : w.woff.toNat + 8 * w.written + k ≤ c) :
    (shiftLoop bit k w).Leaves (fun w' => 8 * w'.written ≤ c) fun _ => True := by
  induction k generalizing w with
  | zero =>
    simp only [shiftLoop, Micro.Leaves]
    omega
  | succ k ih =>
    have hturn := shiftIn_position (bit k) (w := { w with widx := countRegister k }) hle
    rw [shiftLoop_succ]
    cases hr : shiftIn (bit k) { w with widx := countRegister k } with
    | ok u w' =>
      rw [hr] at hturn
      obtain ⟨hle', hposition⟩ := hturn
      have hposition : w'.woff.toNat + 8 * w'.written = w.woff.toNat + 8 * w.written + 1 := hposition
      exact ih hle' (by omega)
    | blocked w' =>
      rw [hr] at hturn
      have hwritten : w'.written = w.written := hturn
      simp only [Micro.bind_blocked, Micro.Leaves]
      omega
    | raise e w' =>
      rw [hr] at hturn
      have hwritten : 8 * w'.written = w.woff.toNat + 8 * w.written + 1 := hturn
      simp only [Micro.bind_raise, Micro.Leaves, true_and]
      omega

/-- However it ends, at most 16 WRITE requests more than `n` have been made. -/
abbrev Micro.WritesFew (n : Nat) (m : Micro Unit WriteSide) : Prop := m.Leaves (fun w => w.written ≤ n + 16) fun _ => True

theorem emit_writesFew (w : WriteSide) : (emit w).WritesFew w.written := by
  have hemit := emit_written w
  cases hr : emit w with
  | ok u w' =>
    rw [hr] at hemit
    exact hemit.2.le.trans (by omega)
  | blocked w' =>
    rw [hr] at hemit
    exact hemit.le.trans (by omega)
  | raise e w' =>
    rw [hr] at hemit
    exact ⟨trivial, hemit.le.trans (by omega)⟩

theorem writeLoop_writesFew {n : Nat} (hn : n ≤ 128) {w : WriteSide} (hle : w.woff.toNat ≤ 7) :
    (writeLoop n w).WritesFew w.written := by
  rw [writeLoop_eq_shiftLoop]
  exact (shiftLoop_written _ n hle le_rfl).mono (fun w' hw' => by omega) fun _ _ => trivial

theorem shiftIn_writesFew (v : Bool) (w : WriteSide) : (shiftIn v w).WritesFew w.written := by
  by_cases hfull : w.woff + 1#4 = 8#4
  · rw [shiftIn_full v hfull]
    exact emit_writesFew _
  · rw [shiftIn_partial v hfull]
    exact Nat.le_add_right _ _

theorem padToByte_writesFew {w : WriteSide} (hle : w.woff.toNat ≤ 7) : (padToByte w).WritesFew w.written := by
  by_cases h0 : w.woff = 0#4
  · rw [padToByte_aligned h0]
    exact Nat.le_add_right _ _
  · rw [padToByte_eq_emit hle h0]
    exact emit_writesFew w.padded

theorem bwFinish_written_le {n : Nat} (j : BwJob) {m : Micro Unit WriteSide} (hm : m.WritesFew n) :
    (bwFinish j m).written ≤ n + 16 := by
  cases m with
  | ok u w => exact hm
  | blocked w => exact hm
  | raise e w => exact hm.2

/-- The sink flush makes no WRITE request (R57). -/
theorem bwFinish_sinkFlush_written (w : WriteSide) : (bwFinish .flushSink (sinkFlush w)).written = w.written := by
  obtain ⟨-, hr⟩ | ⟨a, rest, -, -, hr⟩ | ⟨a, rest, c, -, -, hr⟩ := sinkFlush_cases w
  all_goals rw [hr]
  · rfl
  all_goals
    simp only [bwFinish, WriteSide.written, bwOk_requests, bwRaise_requests, writtenBytes_append]
    simp [writtenBytes]

theorem bwFinishFlush_written_le {n : Nat} {m : Micro Unit WriteSide} (hm : m.WritesFew n) :
    (bwFinishFlush m).written ≤ n + 16 := by
  cases m with
  | ok u w => exact (bwFinish_sinkFlush_written w).le.trans hm
  | blocked w => exact hm
  | raise e w => exact hm.2

/-- R63 for the writes. -/
theorem writerEffect_written {i : Instr} (hi : i.port = .bw) {w : WriteSide} (hinv : w.pendingInv) :
    (writerEffect i w).written ≤ w.written + 16 := by
  obtain ⟨hle, -⟩ := hinv
  cases hflt : w.wflt with
  | true =>
    rw [writerEffect_faulted hi hflt]
    exact Nat.le_add_right _ _
  | false =>
    cases i with
    | wrbit val =>
      rw [writerEffect, wrbitCommand, bwFrame_unfaulted hflt]
      exact bwFinish_written_le _ (shiftIn_writesFew _ (w.latched val))
    | wrbits val n =>
      by_cases hn : 128 < n
      · rw [writerEffect, wrbitsCommand_of_tooWide val hflt hn]
        exact Nat.le_add_right _ _
      · rw [writerEffect, wrbitsCommand_eq val hflt (Nat.le_of_not_lt hn)]
        exact bwFinish_written_le _ (writeLoop_writesFew (w := w.latched val) (Nat.le_of_not_lt hn) hle)
    | wrbyte val =>
      rw [writerEffect, wrbyteCommand_eq val hflt]
      exact bwFinish_written_le _ (writeLoop_writesFew (w := w.latched val) (by decide) hle)
    | pad =>
      rw [writerEffect, padCommand, bwFrame_unfaulted hflt]
      exact bwFinish_written_le _ (padToByte_writesFew hle)
    | fpad =>
      rw [writerEffect, fpadCommand, bwFrame_unfaulted hflt]
      exact bwFinish_written_le _ (emit_writesFew w)
    | flush =>
      rw [writerEffect, flushCommand, bwFrame_unfaulted hflt]
      exact bwFinishFlush_written_le (padToByte_writesFew hle)
    | _ => cases hi

/-- Settles O51: at most 128 bits are read or written, and each byte of them is asked for once. -/
theorem atMostSixteenAccessesPerCommand : Obligations.AtMostSixteenAccessesPerCommand := by
  intro i s t ht
  cases hi : i.port with
  | br =>
    have hexec := exec_br hi s
    rw [ht] at hexec
    cases hexec
    exact ⟨fun hlook => readerEffect_fetches hi hlook ht, fun _ => Nat.le_add_right _ _⟩
  | bw =>
    rw [exec_bw hi] at ht
    cases ht
    exact ⟨fun _ => Nat.le_add_right _ _, fun hinv => writerEffect_written hi hinv⟩

end Sys2Proof.Machine
end

section
/-! Where the answers given without delay run out: the command waits with its next request (spec/20_memory.md rule R69). -/

namespace Sys2Proof.Machine

/-! ### Fetches -/

/-- `r'` is BR waiting as `j` with a fetch, the bytes `bs` handed out since `r` and nothing left of them (R69). -/
structure ReadSide.Starves (r : ReadSide) (j : BrJob) (bs : List Byte) (r' : ReadSide) : Prop where
  phase : r'.phase = .requesting j
  rflt : r'.rflt = r.rflt
  roff : r'.roff = 8#4
  answers : r'.answers = []
  fetches : r'.fetches = r.fetches + bs.length
  taken : r'.taken = r.taken ++ bs

/-- RDBIT starves at once: there is no bit left, and no answer. -/
theorem rdbit_starves {s : State} {bs : List Byte} (hflt : s.rd.rflt = false) (hroff : s.rd.roff.toNat ≤ 8)
    (hans : AnswerBytes s.rd.answers bs) (hlen : 8 - s.rd.roff.toNat + 8 * bs.length < 1) :
    ∃ r, exec .rdbit s = .next { s with rd := r } ∧ s.rd.Starves .rdbit bs r := by
  have h8 : s.rd.roff = 8#4 := BitVec.eq_of_toNat_eq (by simp only [BitVec.toNat_ofNat]; omega)
  obtain rfl : bs = [] := List.length_eq_zero_iff.mp (by omega)
  have hnil : s.rd.answers = [] := List.length_eq_zero_iff.mp hans.length_eq
  refine ⟨_, exec_rdbit hflt, ?_⟩
  rw [readBit_blocked h8 hnil]
  exact ⟨rfl, rfl, h8, hnil, rfl, (List.append_nil _).symm⟩

/-- RDBITS and RDBYTE starve once they have read every bit there is. -/
theorem loopCommand_starves {i : Instr} {j : BrJob} {n : Nat} (hi : LoopCommand i j n) {s : State} {bs : List Byte}
    (hflt : s.rd.rflt = false) (hroff : s.rd.roff.toNat ≤ 8) (hans : AnswerBytes s.rd.answers bs)
    (hlen : 8 - s.rd.roff.toNat + 8 * bs.length < n) :
    ∃ r, exec i s = .next { s with rd := r } ∧ s.rd.Starves j bs r ∧
      r.acc.toNat = bitsValue (s.rd.unread ++ streamBits bs) ∧
      r.bcnt.toNat = n - (8 - s.rd.roff.toNat + 8 * bs.length) := by
  have hn := hi.le
  obtain ⟨k, r, hrun, hex⟩ := readLoop_exhausts (r := s.rd.started n) hroff (List.append_nil _).symm hans hlen
  obtain ⟨q, hq, hwalk⟩ := hex.walk
  have hq : q.length = 8 - s.rd.roff.toNat + 8 * bs.length := hq
  have hbits : s.rd.unread ++ streamBits bs = q := by
    have h : s.rd.unread ++ streamBits bs = q ++ r.unread := hwalk.bits
    rwa [unread_of_exhausted hex.roff, List.append_nil] at h
  have hbcnt : r.bcnt = countRegister n - BitVec.ofNat 8 (8 - s.rd.roff.toNat + 8 * bs.length) := hex.bcnt
  refine ⟨_, exec_loopCommand hi hflt, ?_⟩
  rw [hrun, readLoop_succ, readBit_blocked hex.roff hex.answers]
  refine ⟨⟨rfl, hwalk.rflt, hex.roff, hex.answers, hwalk.fetches, hwalk.taken⟩, ?_, ?_⟩
  · rw [hbits]
    exact hwalk.acc_of_started (by omega)
  · have hcount := toNat_countRegister (k := n) (by omega)
    change r.bcnt.toNat = _
    rw [hbcnt]
    bv_omega

/-! ### Writes -/

/-- `w'` is BW waiting as `j` with the WRITE of `b`, the bytes `bs` written and accepted since `w` (R69). -/
structure WriteSide.Stalls (w : WriteSide) (j : BwJob) (bs : List Byte) (b : Byte) (w' : WriteSide) : Prop where
  phase : w'.phase = .requesting j
  wflt : w'.wflt = w.wflt
  answers : w'.answers = []
  pend : w'.pend = b
  requests : w'.requests = w.requests ++ bs.map .write
  accepted : w'.accepted = w.accepted ++ bs
  drained : w'.drained = w.drained

/-- A command that stalls presents the WRITE of its byte. -/
theorem WriteSide.Stalls.kReq {w : WriteSide} {j : BwJob} {bs : List Byte} {b : Byte} {t : State}
    (h : w.Stalls j bs b t.wr) (hj : j ≠ .flushSink) : Machine.kReq t = some (0#1, b) := by
  rw [kReq_of_requesting h.phase, bwRequest_of_ne_flushSink hj, h.pend, SnkRequest.signals]

/-- WRBIT stalls at WOFF = 7, with the byte its bit completes. -/
theorem wrbit_stalls {s : State} (v : Value) (hflt : s.wr.wflt = false) (hinv : s.wr.pendingInv)
    (hlen : s.wr.answers.length < (s.wr.woff.toNat + 1) / 8) :
    ∃ w, exec (.wrbit v) s = .next { s with wr := w } ∧
      s.wr.Stalls .wrbit [] (BitVec.ofNat 8 (s.wr.pend.toNat * 2 ^ 1 + v.toNat % 2 ^ 1)) w := by
  have ⟨hle, _⟩ := hinv
  have hfull : s.wr.woff + 1#4 = 8#4 := by bv_omega
  have hnil : s.wr.answers = [] := List.length_eq_zero_iff.mp (by omega)
  have hpend : (shiftInBit 8 s.wr.pend (bitOperand v)).toNat = s.wr.pend.toNat * 2 ^ 1 + v.toNat % 2 ^ 1 := by
    have hpacked := toNat_pend_shiftedIn_mul_add (w := s.wr.latched v) hinv 0
    rwa [pow_zero, Nat.mul_one, Nat.mod_one, Nat.add_zero] at hpacked
  refine ⟨_, exec_wrbit v hflt, ?_⟩
  rw [shiftIn_full (w := s.wr.latched v) _ hfull, emit_of_nil (by exact hnil)]
  refine ⟨rfl, rfl, hnil, ?_, (List.append_nil _).symm, (List.append_nil _).symm, rfl⟩
  rw [← hpend, BitVec.ofNat_toNat, BitVec.setWidth_eq]
  rfl

/-- WRBITS and WRBYTE stall with the byte after the accepted ones. -/
theorem writeCommand_stalls {i : Instr} {j : BwJob} {v : Value} {n : Nat} (hi : WriteCommand i j v n) {s : State}
    {bs : List Byte} (hflt : s.wr.wflt = false) (hinv : s.wr.pendingInv) (has : AllAccepted s.wr.answers)
    (hlen : s.wr.answers.length < (s.wr.woff.toNat + n) / 8)
    (hbs : bs = (List.range (s.wr.answers.length + 1)).map fun k =>
      BitVec.ofNat 8 ((s.wr.pend.toNat * 2 ^ n + v.toNat % 2 ^ n) >>>
        ((s.wr.woff.toNat + n) % 8 + 8 * ((s.wr.woff.toNat + n) / 8 - 1 - k)))) :
    ∃ w b, exec i s = .next { s with wr := w } ∧ bs = bs.take s.wr.answers.length ++ [b] ∧
      s.wr.Stalls j (bs.take s.wr.answers.length) b w := by
  obtain ⟨k, w, hrun, hfills⟩ := writeLoop_fills n (w := s.wr.latched v) hinv (List.append_nil _).symm has hlen
  obtain ⟨hlast, hrequests, haccepted⟩ := hfills.bytes hlen hbs
  have hnil : w.answers = [] := hfills.answers.trans List.drop_length
  refine ⟨_, w.pend, exec_writeCommand hi hflt, hlast, ?_⟩
  rw [hrun, emit_of_nil hnil]
  exact ⟨rfl, hfills.wflt, hnil, rfl, hrequests, haccepted, hfills.drained⟩

/-- PAD and FLUSH with bits pending stall with the padded byte. -/
theorem padding_stalls {i : Instr} {j : BwJob} (hi : i = .pad ∧ j = .pad ∨ i = .flush ∧ j = .flushPad) {s : State}
    (hflt : s.wr.wflt = false) (hinv : s.wr.pendingInv) (hne : s.wr.woff ≠ 0#4) (hnil : s.wr.answers = []) :
    ∃ w, exec i s = .next { s with wr := w } ∧
      s.wr.Stalls j [] (s.wr.pend <<< (8 - s.wr.woff.toNat)) w := by
  have hpad : padToByte s.wr = .blocked s.wr.padded := by
    rw [padToByte_eq_emit hinv.1 hne, emit_of_nil (by exact hnil)]
  obtain ⟨rfl, rfl⟩ | ⟨rfl, rfl⟩ := hi
  · refine ⟨_, exec_pad hflt, ?_⟩
    rw [hpad]
    exact ⟨rfl, rfl, hnil, rfl, (List.append_nil _).symm, (List.append_nil _).symm, rfl⟩
  · refine ⟨_, exec_flush hflt, ?_⟩
    rw [hpad]
    exact ⟨rfl, rfl, hnil, rfl, (List.append_nil _).symm, (List.append_nil _).symm, rfl⟩

/-- A sink flush without an answer waits (R57, R69). -/
theorem bwFinish_sinkFlush_of_nil {w : WriteSide} (h : w.answers = []) :
    bwFinish .flushSink (sinkFlush w) = { w with phase := .requesting .flushSink } := by
  simp [sinkFlush, h, bwFinish]

/-! ### Every command -/

theorem exec_presents (i : Instr) (s : State) : ∃ t : State, exec i s = .next t ∧ t.inbox = s.inbox ∧
    (i.port = .br → t.wr = s.wr ∧ (t.rd.phase.isResponding = true ∨ t.rd.phase.isRequesting = true)) ∧
    (i.port = .bw → t.rd = s.rd ∧ (t.wr.phase.isResponding = true ∨ t.wr.phase.isRequesting = true)) := by
  cases hi : i.port with
  | br => exact ⟨_, exec_br hi s, rfl, fun _ => ⟨rfl, (readerEffect_end hi s.rd).presents⟩, nofun⟩
  | bw => exact ⟨_, exec_bw hi s, rfl, nofun, fun _ => ⟨rfl, (writerEffect_end hi s.wr).presents⟩⟩

/-- Settles O19: a command ends or waits, and the loops, EMIT and the sink flush wait where the answers run out. -/
theorem everyCommandRespondsOrRequests : Obligations.EveryCommandRespondsOrRequests := by
  refine ⟨exec_presents, ?reads, ?writes, ?unpadded, ?padding, ?padded⟩
  case reads =>
    rintro i j n s bs (⟨rfl, rfl, rfl⟩ | hi) hflt hroff hans hlen
    · obtain ⟨r, hexec, hst⟩ := rdbit_starves hflt hroff hans hlen
      exact ⟨_, hexec, hst.phase, hst.rflt.trans hflt, hst.roff, hst.answers, hst.fetches, hst.taken,
        fun hne => absurd rfl hne⟩
    · obtain ⟨r, hexec, hst, hacc, hbcnt⟩ := loopCommand_starves hi hflt hroff hans hlen
      exact ⟨_, hexec, hst.phase, hst.rflt.trans hflt, hst.roff, hst.answers, hst.fetches, hst.taken,
        fun _ => ⟨hacc, hbcnt⟩⟩
  case writes =>
    rintro i j v n s bs (⟨rfl, rfl, rfl⟩ | hi) hflt hinv has hlen hbs
    · obtain ⟨w, hexec, hst⟩ := wrbit_stalls v hflt hinv hlen
      have ⟨hle, _⟩ := hinv
      have hnil : s.wr.answers = [] := List.length_eq_zero_iff.mp (by omega)
      have hwoff : s.wr.woff.toNat = 7 := by omega
      obtain rfl : bs = [BitVec.ofNat 8 (s.wr.pend.toNat * 2 ^ 1 + v.toNat % 2 ^ 1)] := by
        rw [hbs, hnil, hwoff]
        rfl
      refine ⟨_, hexec, hst.phase, hst.wflt.trans hflt, hst.answers, hst.kReq (by decide), ?_, ?_, hst.drained⟩
      · rw [hnil]
        exact hst.requests
      · rw [hnil]
        exact hst.accepted
    · obtain ⟨w, b, hexec, hlast, hst⟩ := writeCommand_stalls hi hflt hinv has hlen hbs
      have hj : j ≠ .flushSink := by obtain ⟨-, rfl, -⟩ | ⟨-, rfl, -⟩ := hi <;> decide
      refine ⟨_, hexec, hst.phase, hst.wflt.trans hflt, hst.answers, ?_, hst.requests, hst.accepted, hst.drained⟩
      rw [hst.kReq hj, hlast, List.getLast?_append]
      rfl
  case unpadded =>
    intro s hflt hnil
    refine ⟨?_, fun h0 => ?_⟩
    · rw [exec_fpad hflt, emit_of_nil hnil, bwFinish]
    · rw [exec_flush hflt, padToByte_aligned h0, bwFinishFlush_ok, bwFinish_sinkFlush_of_nil hnil]
  case padding =>
    intro i j s hi hflt hinv hne hnil
    obtain ⟨w, hexec, hst⟩ := padding_stalls hi hflt hinv hne hnil
    have hj : j ≠ .flushSink := by obtain ⟨-, rfl⟩ | ⟨-, rfl⟩ := hi <;> decide
    exact ⟨_, hexec, hst.phase, hst.wflt.trans hflt, hst.answers, hst.kReq hj,
      hst.requests.trans (List.append_nil _), hst.accepted.trans (List.append_nil _), hst.drained⟩
  case padded =>
    intro s a hflt hinv hne ha hr
    have hpad : padToByte s.wr = .ok () (s.wr.padded.emitted []) := by
      rw [padToByte_eq_emit hinv.1 hne, emit_of_accepted (by exact ha) hr]
    refine ⟨_, exec_flush hflt, ?_⟩
    rw [hpad, bwFinishFlush_ok, bwFinish_sinkFlush_of_nil (by rfl)]
    exact ⟨rfl, hflt, rfl, rfl, rfl, rfl, rfl, rfl, rfl⟩

end Sys2Proof.Machine
end

section
/-! A host that issues a loop command and takes its response, and the pseudo-commands made of such (spec/40_reader.md rule
R121, spec/41_writer.md rule R152). -/

namespace Sys2Proof.Machine

@[simp] theorem HostResult.bind_succeed {α β : Type} (a : α) (s : State) (f : α → State → HostResult β) :
    (HostResult.succeed a s).bind f = f a s := rfl

/-- A BR command answered OK, its response taken (R83). -/
theorem issueBr_of_ok {i : Instr} {s t : State} {d : Value} {r : ReadSide}
    (h : exec i { s with rd := brTook (encode i).word s.rd } = .next { t with rd := brOk d r }) :
    issueBr i s = .succeed d { t with rd := brResponseTaken (brOk d r) } := by
  rw [issueBr, h]
  rfl

/-- A BW command answered OK, its response taken (R83). -/
theorem issueBw_of_ok {i : Instr} {s t : State} {w : WriteSide}
    (h : exec i { s with wr := bwTook (encode i).word s.wr } = .next { t with wr := bwOk w }) :
    issueBw i s = .succeed () { t with wr := bwResponseTaken (bwOk w) } := by
  rw [issueBw, h]
  rfl

/-! ### A read -/

/-- BR goes from `r` to `r'` by a command that reads the bits `q` and is answered OK, the source handing out `bs`. -/
structure ReadSide.Delivers (r : ReadSide) (q : List Bool) (bs : List Byte) (r' : ReadSide) : Prop where
  bits : r.unread ++ streamBits bs = q ++ r'.unread
  position : r'.roff.toNat + 8 * bs.length = r.roff.toNat + q.length
  rflt : r'.rflt = r.rflt
  answers : r'.answers = r.answers.drop bs.length
  fetches : r'.fetches = r.fetches + bs.length
  taken : r'.taken = r.taken ++ bs
  phase : r'.phase = .idle
  responses : ∃ d, r'.responses = r.responses ++ [⟨.ok, d, 0#Config.iocodeW⟩]

/-- A loop command whose bytes are handed out delivers its bits (R118). -/
theorem issueBr_loopCommand {i : Instr} {j : BrJob} {n : Nat} (hi : LoopCommand i j n) {s : State}
    {as rest : List SrcAnswer} {bs : List Byte} (hflt : s.rd.rflt = false) (hroff : s.rd.roff.toNat ≤ 8)
    (hans : s.rd.answers = as ++ rest) (hbs : AnswerBytes as bs)
    (hlen : bs.length = (n - (8 - s.rd.roff.toNat) + 7) / 8) :
    ∃ d q r, issueBr i s = .succeed d { s with rd := r } ∧ q.length = n ∧ d.toNat = bitsValue q ∧
      s.rd.Delivers q bs r := by
  have hn := hi.le
  obtain ⟨q, r, hrun, hq, hwalk⟩ :=
    loopReads_of_answerBytes n (r := (brTook (encode i).word s.rd).started n) hroff hans hbs hlen
  have hissue := issueBr_of_ok (s := s)
    (exec_loopCommand_ok hi (s := { s with rd := brTook (encode i).word s.rd }) hflt hrun)
  refine ⟨r.acc, q, _, hissue, hq, hwalk.acc_of_started (by omega), ?_⟩
  exact ⟨hwalk.bits, hwalk.position, hwalk.rflt, hwalk.answers, hwalk.fetches, hwalk.taken, rfl, r.acc,
    congrArg (· ++ [_]) hwalk.responses⟩

theorem toNat_eq_eight {o : Offset} (h : o = 8#4) : o.toNat = 8 := by
  rw [h]
  rfl

/-- RDBYTE on a byte-aligned BR delivers the byte handed out (R119). -/
theorem issueBr_rdbyte_aligned {s : State} {a : SrcAnswer} {rest : List SrcAnswer} {b : Byte}
    (hflt : s.rd.rflt = false) (h8 : s.rd.roff = 8#4) (hans : s.rd.answers = a :: rest) (hb : srcReply a = .byte b) :
    ∃ d q r, issueBr .rdbyte s = .succeed d { s with rd := r } ∧ d.setWidth 8 = b ∧ s.rd.Delivers q [b] r ∧
      r.roff = 8#4 := by
  have hroff := toNat_eq_eight h8
  have hbytes : AnswerBytes [a] [b] := by simp [AnswerBytes, hb]
  obtain ⟨d, q, r, hissue, hq, hd, hdel⟩ := issueBr_loopCommand (i := .rdbyte) (.inr ⟨rfl, rfl, rfl⟩) hflt hroff.le
    (as := [a]) hans hbytes (by rw [hroff]; rfl)
  have hposition := hdel.position
  have hroff' : r.roff = 8#4 := BitVec.eq_of_toNat_eq (by
    rw [List.length_singleton, hq, hroff] at hposition
    simp only [BitVec.toNat_ofNat]
    omega)
  have hbits : msbBits 8 b.toNat = q := by
    have h := hdel.bits
    rwa [unread_of_exhausted h8, unread_of_exhausted hroff', List.nil_append, List.append_nil, streamBits_singleton] at h
  have hbyte : d.setWidth 8 = b := BitVec.eq_of_toNat_eq (by
    rw [BitVec.toNat_setWidth, hd, ← hbits, bitsValue_msbBits, Nat.mod_mod, Nat.mod_eq_of_lt b.isLt])
  exact ⟨d, q, r, hissue, hbyte, hdel, hroff'⟩

/-- Settles O56, by induction on the bytes: a byte-aligned BR stays byte-aligned. -/
theorem rdbytesReturnsTheSourceBytes : Obligations.RdbytesReturnsTheSourceBytes := by
  intro s as rest bs hflt h8 hans hbs
  induction bs generalizing s as with
  | nil =>
    obtain rfl : as = [] := List.length_eq_zero_iff.mp hbs.length_eq
    exact ⟨s, rfl, hflt, h8, hans, rfl, (List.append_nil _).symm, rfl⟩
  | cons b bs ih =>
    obtain ⟨a, as, rfl, ha, hbs⟩ := answerBytes_cons_iff.mp hbs
    obtain ⟨d, q, r, hissue, hd, hdel, h8'⟩ := issueBr_rdbyte_aligned hflt h8 hans ha
    have hans' : r.answers = as ++ rest := by
      rw [hdel.answers, hans]
      rfl
    obtain ⟨t, hrun, hflt', hroff', hrest, hfetches, htaken, hwr⟩ :=
      ih { s with rd := r } as (hdel.rflt.trans hflt) h8' hans' hbs
    refine ⟨t, ?_, hflt', hroff', hrest, ?_, ?_, hwr⟩
    · rw [List.length_cons, rdbytes, hissue, HostResult.bind_succeed, hrun, HostResult.bind_succeed, hd]
    · have hfetch : r.fetches = s.rd.fetches + 1 := hdel.fetches
      rw [hfetches, hfetch, List.length_cons]
      omega
    · have htook : r.taken = s.rd.taken ++ [b] := hdel.taken
      rw [htaken, htook, List.append_assoc, List.singleton_append]

/-! ### A write -/

/-- BW goes from `w` to `w'` by a command that packs the `len`-bit number `x` and is answered OK. -/
structure WriteSide.Stores (w : WriteSide) (len x : Nat) (w' : WriteSide) : Prop where
  requests : w'.requests = w.requests ++ (packedBytes len x).map .write
  accepted : w'.accepted = w.accepted ++ packedBytes len x
  answers : w'.answers = w.answers.drop (len / 8)
  woff : w'.woff.toNat = len % 8
  pend : w'.pend.toNat = x % 2 ^ (len % 8)
  wflt : w'.wflt = w.wflt

/-- A loop command whose bytes are accepted stores its bits (R148). -/
theorem issueBw_writeCommand {i : Instr} {j : BwJob} {v : Value} {n : Nat} (hi : WriteCommand i j v n) {s : State}
    {as rest : List SnkAnswer} (hflt : s.wr.wflt = false) (hinv : s.wr.pendingInv) (hans : s.wr.answers = as ++ rest)
    (has : AllAccepted as) (hlen : as.length = (s.wr.woff.toNat + n) / 8) :
    ∃ w, issueBw i s = .succeed () { s with wr := w } ∧
      s.wr.Stores (s.wr.woff.toNat + n) (s.wr.pend.toNat * 2 ^ n + v.toNat % 2 ^ n) w := by
  obtain ⟨w, hrun, hpacks⟩ :=
    writeLoop_packs n (w := (bwTook (encode i).word s.wr).latched v) hinv hans has hlen
  have hexec : exec i { s with wr := bwTook (encode i).word s.wr } = .next { s with wr := bwOk w } := by
    rw [exec_writeCommand hi (s := { s with wr := bwTook (encode i).word s.wr }) hflt, hrun, bwFinish]
  exact ⟨_, issueBw_of_ok hexec, hpacks.requests, hpacks.accepted, hpacks.answers, hpacks.woff, hpacks.pend, hpacks.wflt⟩

/-- WRBYTE on a byte-aligned BW stores its byte (R150). -/
theorem issueBw_wrbyte_aligned {s : State} {a : SnkAnswer} {rest : List SnkAnswer} (b : Byte)
    (hflt : s.wr.wflt = false) (h0 : s.wr.woff = 0#4) (hp : s.wr.pend = 0#8) (hans : s.wr.answers = a :: rest)
    (ha : writeReply a = .accepted) :
    ∃ w, issueBw (.wrbyte (b.setWidth 128)) s = .succeed () { s with wr := w } ∧
      w.requests = s.wr.requests ++ [.write b] ∧ w.accepted = s.wr.accepted ++ [b] ∧ w.answers = rest ∧
      w.woff = 0#4 ∧ w.pend = 0#8 ∧ w.wflt = false := by
  have hinv : s.wr.pendingInv := by
    rw [WriteSide.pendingInv, h0, hp]
    decide
  obtain ⟨w, hissue, hst⟩ := issueBw_writeCommand (i := .wrbyte (b.setWidth 128)) (.inr ⟨rfl, rfl, rfl⟩) hflt hinv
    (as := [a]) hans (by simpa [AllAccepted] using ha) (by rw [h0]; rfl)
  have hnumber : s.wr.pend.toNat * 2 ^ 8 + (b.setWidth 128).toNat % 2 ^ 8 = b.toNat := by
    rw [hp, BitVec.toNat_setWidth_of_le (by decide), Nat.mod_eq_of_lt b.isLt]
    simp
  have hbytes : packedBytes 8 b.toNat = [b] := by simp [packedBytes]
  rw [hnumber, h0, show (0#4).toNat + 8 = 8 from rfl] at hst
  refine ⟨w, hissue, ?_, ?_, ?_, ?_, ?_, hst.wflt.trans hflt⟩
  · rw [hst.requests, hbytes, List.map_singleton]
  · rw [hst.accepted, hbytes]
  · rw [hst.answers, hans]
    rfl
  · exact BitVec.eq_of_toNat_eq hst.woff
  · exact BitVec.eq_of_toNat_eq (hst.pend.trans (Nat.mod_one _))

/-- Settles O57, by induction on the bytes: a byte-aligned BW stays byte-aligned. -/
theorem wrbytesAppendsTheBytes : Obligations.WrbytesAppendsTheBytes := by
  intro s as rest bs hflt h0 hp hans has hlen
  induction bs generalizing s as with
  | nil =>
    obtain rfl : as = [] := List.length_eq_zero_iff.mp hlen
    exact ⟨s, rfl, (List.append_nil _).symm, (List.append_nil _).symm, h0, hp, hflt, hans, rfl⟩
  | cons b bs ih =>
    obtain ⟨a, as, rfl⟩ := List.exists_cons_of_length_pos (l := as) (by rw [hlen]; exact Nat.succ_pos _)
    obtain ⟨ha, has⟩ := List.forall_mem_cons.mp has
    obtain ⟨w, hissue, hrequests, haccepted, hrest, hwoff, hpend, hwflt⟩ := issueBw_wrbyte_aligned b hflt h0 hp hans ha
    obtain ⟨t, hrun, haccepted', hrequests', hend⟩ :=
      ih { s with wr := w } as hwflt hwoff hpend hrest has (Nat.succ_inj.mp hlen)
    refine ⟨t, ?_, ?_, ?_, hend⟩
    · rw [wrbytes, hissue, HostResult.bind_succeed, hrun]
    · rw [haccepted', haccepted, List.append_assoc, List.singleton_append]
    · rw [hrequests', hrequests, List.append_assoc, List.map_cons, List.singleton_append]

end Sys2Proof.Machine
end

section
/-! Fields of any widths, written, flushed and read back (spec/95_test_vectors.md T3): the bits a BW has stored, and the
bits a BR has still to deliver. -/

namespace Sys2Proof.Machine

/-- The bits of fields, one after the other (R60). -/
def fieldBits (fs : List (Value × Nat)) : List Bool := fs.flatMap fun f => msbBits f.2 f.1.toNat

theorem fieldBits_cons (v : Value) (n : Nat) (fs : List (Value × Nat)) :
    fieldBits ((v, n) :: fs) = msbBits n v.toNat ++ fieldBits fs := List.flatMap_cons

/-! ### The bits stored -/

/-- A number packed into bytes loses no bit: the low ones are left over (R148). -/
theorem streamBits_packedBytes (len x : Nat) : streamBits (packedBytes len x) ++ msbBits (len % 8) x = msbBits len x := by
  induction len using Nat.strongRecOn generalizing x with
  | ind len ih =>
    by_cases hlt : len < 8
    · rw [packedBytes_of_lt hlt, Nat.mod_eq_of_lt hlt, streamBits_nil, List.nil_append]
    · obtain ⟨k, rfl⟩ := Nat.exists_eq_add_of_le (Nat.le_of_not_lt hlt)
      have hbelow : streamBits (packedBytes k (x % 2 ^ k)) ++ msbBits (k % 8) x = msbBits k x := by
        rw [← msbBits_mod (Nat.mod_le k 8) x, ← msbBits_mod (le_refl k) x]
        exact ih k (by omega) (x % 2 ^ k)
      have htop : streamBits [BitVec.ofNat 8 (x >>> k)] = msbBits 8 (x >>> k) := by
        rw [streamBits_singleton, BitVec.toNat_ofNat, msbBits_mod le_rfl]
      rw [packedBytes_eight_add, ← List.singleton_append, streamBits_append, htop, Nat.add_mod_left, List.append_assoc,
        hbelow, msbBits_add]

/-- The bits of a number and the low bits of another behind them. -/
theorem msbBits_mul_two_pow_add (m n x v : Nat) :
    msbBits (m + n) (x * 2 ^ n + v % 2 ^ n) = msbBits m x ++ msbBits n v := by
  have hlt : v % 2 ^ n < 2 ^ n := Nat.mod_lt _ (Nat.two_pow_pos n)
  have htop : (x * 2 ^ n + v % 2 ^ n) >>> n = x := by
    rw [Nat.shiftRight_eq_div_pow, Nat.mul_comm, Nat.mul_add_div (Nat.two_pow_pos n), Nat.div_eq_of_lt hlt, Nat.add_zero]
  rw [msbBits_add, htop, ← msbBits_mod le_rfl (x * 2 ^ n + v % 2 ^ n), Nat.mul_add_mod_of_lt hlt, msbBits_mod le_rfl]

/-- The bits BW has taken: those of the accepted bytes, and the pending ones. -/
def WriteSide.storedBits (w : WriteSide) : List Bool := streamBits w.accepted ++ msbBits w.woff.toNat w.pend.toNat

/-- A command that stores adds its bits to those BW has taken. -/
theorem WriteSide.Stores.storedBits {w w' : WriteSide} {n v : Nat}
    (h : w.Stores (w.woff.toNat + n) (w.pend.toNat * 2 ^ n + v % 2 ^ n) w') :
    w'.storedBits = w.storedBits ++ msbBits n v := by
  rw [WriteSide.storedBits, h.accepted, h.woff, h.pend, msbBits_mod le_rfl, streamBits_append, List.append_assoc,
    streamBits_packedBytes, msbBits_mul_two_pow_add, WriteSide.storedBits, List.append_assoc]

theorem WriteSide.Stores.pendingInv {w w' : WriteSide} {len x : Nat} (h : w.Stores len x w') : w'.pendingInv := by
  rw [WriteSide.pendingInv, h.woff, h.pend]
  exact ⟨Nat.le_of_lt_succ (Nat.mod_lt _ (by decide)), Nat.mod_lt _ (Nat.two_pow_pos _)⟩

/-- BW is unfaulted, and its sink accepts whatever `m` more bits and a FLUSH need. -/
structure WriteSide.Provided (w : WriteSide) (m : Nat) : Prop where
  wflt : w.wflt = false
  pendingInv : w.pendingInv
  answers : ∃ k, w.answers = List.replicate k goodAnswer ∧ (w.woff.toNat + m) / 8 + 2 ≤ k

/-- A WRBITS to a sink that accepts everything. -/
theorem issueBw_wrbits_provided {s : State} (v : Value) {n m : Nat} (hn : n ≤ 128) (h : s.wr.Provided (n + m)) :
    ∃ w, issueBw (.wrbits v n) s = .succeed () { s with wr := w } ∧ w.Provided m ∧
      w.storedBits = s.wr.storedBits ++ msbBits n v.toNat := by
  obtain ⟨k, hans, hk⟩ := h.answers
  obtain ⟨k', rfl⟩ : ∃ k', k = (s.wr.woff.toNat + n) / 8 + k' := Nat.exists_eq_add_of_le (by omega)
  rw [List.replicate_add] at hans
  have has : AllAccepted (List.replicate ((s.wr.woff.toNat + n) / 8) goodAnswer) := fun a ha => by
    rw [List.eq_of_mem_replicate ha]
    rfl
  obtain ⟨w, hissue, hst⟩ :=
    issueBw_writeCommand (v := v) (.inl ⟨rfl, rfl, hn⟩) h.wflt h.pendingInv hans has (List.length_replicate ..)
  refine ⟨w, hissue, ⟨hst.wflt.trans h.wflt, hst.pendingInv, k', ?_, ?_⟩, hst.storedBits⟩
  · rw [hst.answers, hans, List.drop_left' (List.length_replicate ..)]
  · rw [hst.woff]
    omega

/-- The fields written one after the other are the bits stored. -/
theorem writeFields_storedBits {fs : List (Value × Nat)} (hfs : ∀ f ∈ fs, f.2 ≤ 128) {s : State}
    (h : s.wr.Provided (fs.map Prod.snd).sum) :
    ∃ w, writeFields fs s = .succeed () { s with wr := w } ∧ w.Provided 0 ∧
      w.storedBits = s.wr.storedBits ++ fieldBits fs := by
  induction fs generalizing s with
  | nil => exact ⟨s.wr, rfl, h, (List.append_nil _).symm⟩
  | cons f fs ih =>
    obtain ⟨v, n⟩ := f
    obtain ⟨hn, hfs⟩ := List.forall_mem_cons.mp hfs
    rw [List.map_cons, List.sum_cons] at h
    obtain ⟨w, hissue, hprovided, hbits⟩ := issueBw_wrbits_provided v hn h
    obtain ⟨w', hrun, hprovided', hbits'⟩ := ih hfs (s := { s with wr := w }) hprovided
    refine ⟨w', ?_, hprovided', ?_⟩
    · rw [writeFields, hissue, HostResult.bind_succeed, hrun]
    · rw [hbits', hbits, fieldBits_cons, List.append_assoc]

/-! ### The flush -/

/-- The padded byte begins with the pending bits (R159). -/
theorem msbBits_padded (p : Byte) {o : Nat} (ho : o ≤ 8) :
    msbBits 8 (p <<< (8 - o)).toNat = msbBits o p.toNat ++ msbBits (8 - o) 0 := by
  have hadd := msbBits_mul_two_pow_add o (8 - o) p.toNat 0
  rw [Nat.add_sub_of_le ho, Nat.zero_mod, Nat.add_zero] at hadd
  rw [BitVec.toNat_shiftLeft, msbBits_mod le_rfl, Nat.shiftLeft_eq, hadd]

/-- FLUSH to a sink that accepts everything answers OK, the stored bits being those of the accepted bytes and zeros. -/
theorem flush_provided {w : WriteSide} (h : w.Provided 0) :
    ∃ w' tail, bwFinishFlush (padToByte w) = bwOk w' ∧ w'.commands = w.commands ∧
      streamBits w'.accepted = w.storedBits ++ tail := by
  obtain ⟨hflt, ⟨hle, -⟩, k, hans, hk⟩ := h
  obtain ⟨k, rfl⟩ := Nat.exists_eq_add_of_le' (show 2 ≤ k by omega)
  have hans : w.answers = goodAnswer :: goodAnswer :: List.replicate k goodAnswer := hans
  by_cases h0 : w.woff = 0#4
  · rw [padToByte_aligned h0, bwFinishFlush_ok, bwFinish_sinkFlush_of_done hans rfl]
    refine ⟨_, [], rfl, rfl, ?_⟩
    simp [WriteSide.storedBits, h0, msbBits]
  · rw [padToByte_eq_emit hle h0, emit_of_accepted (w := w.padded) hans rfl, bwFinishFlush_ok,
      bwFinish_sinkFlush_of_done (emitted_answers _ _) rfl]
    refine ⟨_, msbBits (8 - w.woff.toNat) 0, rfl, rfl, ?_⟩
    change streamBits (w.accepted ++ [w.pend <<< (8 - w.woff.toNat)]) = _
    rw [streamBits_append, streamBits_singleton, msbBits_padded _ (by omega), WriteSide.storedBits, List.append_assoc]

/-- A session that a FLUSH answered OK ends has ended well (R215). -/
theorem endedWell_of_flush {w w' : WriteSide} (h : w'.commands = (bwTook (cmdWord .flush 0) w).commands) :
    (bwResponseTaken (bwOk w')).endedWell := by
  refine ⟨rfl, ?_, ?_⟩
  · change w'.commands.getLast? = _
    rw [h, bwTook_commands, List.getLast?_concat]
  · change ((w'.responses ++ [_]) ++ []).getLast?.map BwResponse.status = _
    rw [List.append_nil, List.getLast?_concat]
    rfl

theorem issueBw_flush_provided {s : State} (h : s.wr.Provided 0) :
    ∃ w tail, issueBw .flush s = .succeed () { s with wr := w } ∧ w.endedWell ∧
      streamBits w.accepted = s.wr.storedBits ++ tail := by
  have htook : (bwTook (encode .flush).word s.wr).Provided 0 := ⟨h.wflt, h.pendingInv, h.answers⟩
  obtain ⟨w, tail, hrun, hcommands, hbits⟩ := flush_provided htook
  have hexec : exec .flush { s with wr := bwTook (encode .flush).word s.wr } = .next { s with wr := bwOk w } := by
    rw [exec_flush (s := { s with wr := bwTook (encode .flush).word s.wr }) h.wflt, hrun]
  exact ⟨_, tail, issueBw_of_ok hexec, endedWell_of_flush hcommands, hbits⟩

/-! ### The fields read -/

theorem srcReply_byteAnswer (b : Byte) : srcReply (byteAnswer b) = .byte b := by simp [srcReply, byteAnswer]

theorem answerBytes_byteAnswer (bs : List Byte) : AnswerBytes (bs.map byteAnswer) bs := by
  rw [AnswerBytes, List.map_map]
  exact List.map_congr_left fun b _ => srcReply_byteAnswer b

/-- BR is unfaulted between two commands, all answered OK, and its source hands out the bytes `bs`. -/
structure ReadSide.Supplied (r : ReadSide) (bs : List Byte) : Prop where
  rflt : r.rflt = false
  roff : r.roff.toNat ≤ 8
  answers : r.answers = bs.map byteAnswer
  endedWell : r.endedWell

/-- An RDBITS delivers the field that comes next. -/
theorem issueBr_rdbits_supplied {s : State} {bs : List Byte} {n v : Nat} {q : List Bool} (hn : n ≤ 128)
    (h : s.rd.Supplied bs) (hbits : s.rd.unread ++ streamBits bs = msbBits n v ++ q) :
    ∃ d r bs', issueBr (.rdbits n) s = .succeed d { s with rd := r } ∧ d.toNat = v % 2 ^ n ∧ r.Supplied bs' ∧
      r.unread ++ streamBits bs' = q := by
  have hroff := h.roff
  have hcount := congrArg List.length hbits
  rw [List.length_append, length_unread hroff, length_streamBits, List.length_append, length_msbBits] at hcount
  obtain ⟨bs₁, bs₂, rfl, hlen⟩ : ∃ bs₁ bs₂, bs = bs₁ ++ bs₂ ∧ bs₁.length = (n - (8 - s.rd.roff.toNat) + 7) / 8 :=
    ⟨_, _, (List.take_append_drop _ bs).symm, List.length_take_of_le (by omega)⟩
  have hans : s.rd.answers = bs₁.map byteAnswer ++ bs₂.map byteAnswer := h.answers.trans List.map_append
  obtain ⟨d, q₁, r, hissue, hq₁, hd, hdel⟩ := issueBr_loopCommand (i := .rdbits n) (.inl ⟨rfl, rfl, hn⟩) h.rflt hroff
    hans (answerBytes_byteAnswer bs₁) hlen
  have hsplit : q₁ ++ (r.unread ++ streamBits bs₂) = msbBits n v ++ q := by
    rw [← hbits, streamBits_append, ← List.append_assoc, ← List.append_assoc, hdel.bits]
  obtain ⟨rfl, hrest⟩ := List.append_inj hsplit (hq₁.trans (length_msbBits n v).symm)
  have hposition := hdel.position
  rw [hq₁, hlen] at hposition
  refine ⟨d, r, bs₂, hissue, by rw [hd, bitsValue_msbBits], ⟨hdel.rflt.trans h.rflt, by omega, ?_, hdel.phase, ?_⟩, hrest⟩
  · rw [hdel.answers, hans, List.drop_left' (List.length_map ..)]
  · obtain ⟨d', hresponses⟩ := hdel.responses
    intro p hp
    rw [hresponses, List.mem_append, List.mem_singleton] at hp
    obtain hp | rfl := hp
    · exact h.endedWell.2 p hp
    · rfl

/-- The fields come back in their order. -/
theorem readFields_supplied {fs : List (Value × Nat)} (hfs : ∀ f ∈ fs, f.2 ≤ 128) {s : State} {bs : List Byte}
    {tail : List Bool} (h : s.rd.Supplied bs) (hbits : s.rd.unread ++ streamBits bs = fieldBits fs ++ tail) :
    ∃ out v, readFields (fs.map Prod.snd) s = .succeed out v ∧
      out.map BitVec.toNat = fs.map (fun f => f.1.toNat % 2 ^ f.2) ∧ v.rd.endedWell := by
  induction fs generalizing s bs with
  | nil => exact ⟨[], s, rfl, rfl, h.endedWell⟩
  | cons f fs ih =>
    obtain ⟨v, n⟩ := f
    obtain ⟨hn, hfs⟩ := List.forall_mem_cons.mp hfs
    rw [fieldBits_cons, List.append_assoc] at hbits
    obtain ⟨d, r, bs', hissue, hd, hsupplied, hbits'⟩ := issueBr_rdbits_supplied hn h hbits
    obtain ⟨out, u, hrun, hout, hended⟩ := ih hfs (s := { s with rd := r }) hsupplied hbits'
    refine ⟨d :: out, u, ?_, ?_, hended⟩
    · rw [List.map_cons, readFields, hissue, HostResult.bind_succeed, hrun, HostResult.bind_succeed]
    · rw [List.map_cons, List.map_cons, hout, hd]

/-- Settles O58: the bits written are the bits of the accepted bytes, and those are the bits read. -/
theorem fieldsComeBackFromTheSink : Obligations.FieldsComeBackFromTheSink := by
  rintro fs k s hfs hk rfl
  have hstart : WriteSide.Provided { WriteSide.reset with answers := List.replicate k goodAnswer }
      (fs.map Prod.snd).sum := by
    refine ⟨rfl, ⟨Nat.zero_le 7, Nat.one_pos⟩, k, rfl, ?_⟩
    rw [show WriteSide.reset.woff.toNat = 0 from rfl, Nat.zero_add]
    exact hk
  obtain ⟨w, hwrite, hprovided, hstored⟩ := writeFields_storedBits hfs
    (s := { State.reset with wr := { WriteSide.reset with answers := List.replicate k goodAnswer } }) hstart
  obtain ⟨w', tail, hflush, hended, hbits⟩ := issueBw_flush_provided (s := { State.reset with wr := w }) hprovided
  have hsource : streamBits w'.accepted = fieldBits fs ++ tail := by
    rw [hbits, hstored]
    rfl
  refine ⟨_, _, hwrite, hflush, hended, readFields_supplied hfs (bs := w'.accepted) (tail := tail) ?_ ?_⟩
  · exact ⟨rfl, le_refl 8, rfl, rfl, nofun⟩
  · exact hsource

end Sys2Proof.Machine
end
